-- ==== Sys2Proof/Word.lean ====
section
/-! DEFINITION. The word types of the block: bytes of a line, 32-bit words and symbols, 64-bit counters.
spec/00_scope.md R10 fixes the notation (bit 0 is the least significant bit, uN is unsigned). -/

namespace Sys2Proof

/-- One byte of a line, a dictionary entry or a payload (00_scope.md R10). -/
abbrev Byte := BitVec 8

/-- A 32-bit word: a command word (30_encoding.md R81), a result latch, an SC2 symbol (10_state.md R30). -/
abbrev Word32 := BitVec 32

/-- A 64-bit word: running totals (10_state.md R25), step counters and stamps (R38, R45). -/
abbrev Word64 := BitVec 64

/-- The bytes handed to an encoder, in address order (00_scope.md R15). -/
abbrev Line := List Byte

end Sys2Proof
end

