-- ==== Sys2Proof/Config.lean ====
section
/-! DEFINITION. The static parameters of spec/00_scope.md R8 (with 40_mpc.md R110 for the MPC pipeline
description), as plain data that rides in State.cfg and that no step writes (log 1), and the values that
the spec leaves open, as opaque constants (logs 6, 7, 8). -/

namespace Sys2Proof

/-- The units of 30_encoding.md R82, in the order of their codes 0 to 12. -/
inductive UnitId where
  | sys | mpc | bdi | fpc | bpc | cpack | sc2 | eng | dq | cdq | lnk | mldn | mlup
  deriving DecidableEq, Repr

/-- `ALG`: the six encoders one of which is the shared engine (00_scope.md R2, R8). -/
inductive Alg where
  | mpc | bdi | fpc | bpc | cpack | sc2
  deriving DecidableEq, Repr

/-- `LINK_KIND` (00_scope.md R8). -/
inductive LinkKind where
  | plain | compressed
  deriving DecidableEq, Repr

/-- `DIR` of a compressed link (48_compressed_link.md R290). -/
inductive Dir where
  | down | up
  deriving DecidableEq, Repr

/-- `BADTYPE_AT`: where an unrecognised transaction type is caught (92_eei_decisions.md D67). -/
inductive BadTypeAt where
  | push | schedule
  deriving DecidableEq, Repr

/-- `CPACK_MATCH` (44_cpack.md R208). -/
inductive CpackMatch where
  | firstHit | bestHit
  deriving DecidableEq, Repr

/-- The weight table of a WeightBase predictor. Its shape and its number format are not given (40_mpc.md
R116): the model stores it uninterpreted (log 7). -/
abbrev WeightTable := List Nat

/-- The four predictors of a general MPC module (40_mpc.md R110, R116 to R119); `unrecognised` is a predictor name
that 60_exceptions.md R345 makes a configuration error (log 28). -/
inductive Predictor where
  | weightBase (table : WeightTable)
  | diffBase (base : List (Option Nat)) (off : List Int)
  | oneBase (root : Nat)
  | consecutiveBase
  | unrecognised
  deriving DecidableEq, Repr

/-- The XOR mode of a general MPC module (40_mpc.md R122). -/
inductive XorMode where
  | none | consecutive
  deriving DecidableEq, Repr

/-- A general (PredComp) module's own part (40_mpc.md R110). `scan` lists R rows of C pairs (k, i).
`bitplaneKnown` and `patternKnown` say that the two sub-specifications, which select nothing, carry a
recognised name (R110; log 28). -/
structure PredComp where
  pred : Predictor
  xor : XorMode
  scan : List (List (Nat × Nat))
  bitplaneKnown : Bool := true
  patternKnown : Bool := true
  deriving DecidableEq, Repr

/-- The module kinds of 40_mpc.md R110; `unrecognised` is the kind that R129 makes a startup error. -/
inductive ModuleKind where
  | allZero
  | allWordSame
  | predComp (m : PredComp)
  | unrecognised
  deriving DecidableEq, Repr

/-- A module descriptor. `encW = none` means that the description omits the width and it is derived
from `numClusters` (40_mpc.md R128). -/
structure MpcModule where
  kind : ModuleKind
  encW : Option Nat
  deriving DecidableEq, Repr

/-- `MPC_CFG`, the pipeline description (40_mpc.md R110), with the named argument `numClusters` of R128,
which is OPEN and so has no default (00_scope.md R9). -/
structure MpcCfg where
  lineSize : Nat
  encWUnc : Option Nat
  modules : List MpcModule
  numClusters : Nat
  deriving DecidableEq, Repr

/-- The parameters of a Delay Queue (00_scope.md R8, 46_delay_queues.md R240, R242). -/
structure DqParams where
  size : Nat
  latency : Nat
  popClears : Bool := false
  deriving DecidableEq, Repr

/-- The parameters of a Compressed Delay Queue (00_scope.md R8, 46_delay_queues.md R250). -/
structure CdqParams where
  size : Nat
  latency : Nat
  deriving DecidableEq, Repr

/-- `DQ_SIZE + DQ_LATENCY` (10_state.md R35). -/
def DqParams.cap (p : DqParams) : Nat := p.size + p.latency

/-- `CDQ_SIZE + CDQ_LATENCY` (10_state.md R37). -/
def CdqParams.cap (p : CdqParams) : Nat := p.size + p.latency

/-- The parameters of one Oneway Link (00_scope.md R8; 47_oneway_link.md R265; 48_compressed_link.md R290).
`doneDepth = none` is the default "unbounded". A field without a default of R8 has none here; a plain link
carries `dir` and `cdq` and no rule of a plain link reads them (log 34). -/
structure LinkParams where
  kind : LinkKind
  dir : Dir
  sources : Nat
  dests : Nat
  flitBits : Nat
  headBits : Nat
  dq : DqParams
  cdq : CdqParams
  readyDepth : Nat
  doneDepth : Option Nat := none
  rrStartOffset : Nat := 0
  compPassFirst : Bool := false
  compPerSrcPerStep : Nat := 1
  leftoverEnable : Bool := true
  dnShortFallback : Bool := false
  badTypeAt : BadTypeAt := .push
  clampRaw : Bool := false
  deriving DecidableEq, Repr

/-- All static parameters of an instance (00_scope.md R8). The parameters that the spec writes as functions
of a number (`BDI_MASK_BITS`, `BPC_LOWER_BOUND`, `BPC_ZRL_COST`) are lists of exceptions to the spec's
default (log 15); the two SC2 orders are lists of preferred symbols and node numbers (log 14). -/
structure Params where
  present : List UnitId
  alg : Option Alg
  maxLineBytes : Nat := 128
  mpc : MpcCfg
  mpcRows : Nat := 16
  mpcCols : Nat := 16
  mpcForceConsecXor : Bool := false
  bdiMaskBits : List (Nat × Nat) := []
  bdiDeltaForBaseWord : Bool := false
  fpcZrunPayload : Nat := 0
  fpcZp16LowZero : Bool := true
  bpcFirstWordAlwaysZero : Bool := false
  bpcLowerBound : List (Nat × Int) := []
  bpcZrlCost : List (Nat × Nat) := []
  cpackMatch : CpackMatch := .firstHit
  cpackInsertOnPartial : Bool := false
  sc2WarmupCalls : Nat
  sc2PruneOrder : List Word32 := []
  sc2HeapOrder : List Nat := []
  sc2MinCodeLen : Nat := 0
  bwFrac : Nat := 16
  dq : DqParams
  cdq : CdqParams
  lnk : LinkParams
  dn : LinkParams
  up : LinkParams
  deriving DecidableEq, Repr

/-- Is the unit part of this instance? `SYS` always is (30_encoding.md R82; log 10). -/
def Params.has (p : Params) (u : UnitId) : Bool :=
  u == .sys || p.present.contains u

/-- The down link of the Memory Link: its `DIR` is down (49_memory_link.md R330). -/
def Params.dnLink (p : Params) : LinkParams := { p.dn with dir := .down }

/-- The up link of the Memory Link: its `DIR` is up (49_memory_link.md R330). -/
def Params.upLink (p : Params) : LinkParams := { p.up with dir := .up }

/-- The SC2 heap capacity (45_sc2.md R225). -/
def sc2HeapCapacity : Nat := 1024

/-- `MPC_WEIGHT_PRED`, the OPEN predictor of 40_mpc.md R116: byte i of the prediction from the module's
table and the 32 bytes. A free value (log 7). -/
opaque Config.mpcWeightPred : WeightTable → Line → Nat → Byte

/-- The width derived from `numClusters` = 0, for which 40_mpc.md R128 states none. A free value (log 8). -/
opaque Config.encWidthOfNoClusters : Nat

/-- The byte at an offset of a line at which the host supplied no byte (00_scope.md R15 has the line be
`byteCount` bytes). A free value of the supplied bytes and the offset (log 6). -/
opaque Config.unsuppliedByte : Line → Nat → Byte

/-- `SCAN0`, the example scan of 40_mpc.md R123. -/
def scan0 : List (List (Nat × Nat)) :=
  (List.range 16).map fun row => (List.range 16).map fun col => (7 - row / 2, 16 * (row % 2) + col)

/-- The pipeline of the worked example 40_mpc.md R131. Every width is explicit there, so `numClusters`, which the
example does not give, is never read: 1 is a DESIGN CHOICE (log 2). -/
def exampleMpcCfg : MpcCfg where
  lineSize := 32
  encWUnc := some 2
  modules :=
    [ { kind := .allZero, encW := some 2 },
      { kind := .allWordSame, encW := some 2 },
      { kind := .predComp { pred := .consecutiveBase, xor := .consecutive, scan := scan0 }, encW := some 2 } ]
  numClusters := 1

/-- The compressed link of the worked examples 48_compressed_link.md R311, R312. -/
def exampleCompressedLink (d : Dir) : LinkParams where
  kind := .compressed
  dir := d
  sources := 2
  dests := 1
  flitBits := 64
  headBits := 8
  dq := { size := 4, latency := 2 }
  cdq := { size := 4, latency := 1 }
  readyDepth := 4

/-- The plain link of the worked examples 47_oneway_link.md R282 and 95_test_vectors.md V-L2. `dir` and `cdq`,
which a plain link never reads, are those of R312: DESIGN CHOICE (log 2). -/
def examplePlainLink : LinkParams where
  kind := .plain
  dir := .down
  sources := 2
  dests := 2
  flitBits := 128
  headBits := 8
  dq := { size := 4, latency := 2 }
  cdq := { size := 4, latency := 1 }
  readyDepth := 4

/-- The instance that State.reset carries: every unit present, every parameter without a default taken from
one of the spec's own examples. DESIGN CHOICE (log 2): no statement rests on it. -/
def exampleParams : Params where
  present := [.mpc, .bdi, .fpc, .bpc, .cpack, .sc2, .eng, .dq, .cdq, .lnk, .mldn, .mlup]
  alg := some .fpc
  mpc := exampleMpcCfg
  sc2WarmupCalls := 2
  dq := { size := 2, latency := 2 }
  cdq := { size := 2, latency := 2 }
  lnk := examplePlainLink
  dn := exampleCompressedLink .down
  up := exampleCompressedLink .up

end Sys2Proof
end

