-- ==== Sys2Proof/Syntax.lean ====
section
/-! DEFINITION. The 48 commands of spec/30_encoding.md R83 (spec/opcode_table.json), one constructor each.
Operands are those R83 lists for the row; a field that the row does not use is ignored (R81) and has no
argument here. Operands on the latches (OP_TXN, OP_LINE, OP_BW, OP_NOW) are state, not syntax. -/

namespace Sys2Proof

/-- The commands, in the order of spec/opcode_table.json. `byteCount`, `nFlits` and `size` are `arg`,
`src` and `dst` are `idx` (R84). -/
inductive Instr where
  | sysReset
  | sysRdfault
  | mpcCompress (byteCount : Nat)
  | mpcTotu
  | mpcTotc
  | bdiCompress (byteCount : Nat)
  | bdiTotu
  | bdiTotc
  | bdiRdstate
  | fpcCompress (byteCount : Nat)
  | fpcTotu
  | fpcTotc
  | bpcCompress (byteCount : Nat)
  | bpcTotu
  | bpcTotc
  | cpackCompress (byteCount : Nat)
  | cpackTotu
  | cpackTotc
  | sc2Compress (byteCount : Nat)
  | sc2Totu
  | sc2Totc
  | engCompress (byteCount : Nat)
  | engTotu
  | engTotc
  | dqPush (head : Bool) (tail : Bool) (hasTxn : Bool)
  | dqPop
  | cdqPush (size : Nat)
  | cdqTop
  | cdqPop
  | cdqFull
  | lnkPush (src : Nat)
  | lnkFull (src : Nat)
  | lnkStep (nFlits : Nat)
  | lnkEmpty (dst : Nat)
  | lnkTop (dst : Nat)
  | lnkPop (dst : Nat)
  | mldnPush (src : Nat)
  | mldnFull (src : Nat)
  | mldnStep
  | mldnEmpty (dst : Nat)
  | mldnTop (dst : Nat)
  | mldnPop (dst : Nat)
  | mlupPush (src : Nat)
  | mlupFull (src : Nat)
  | mlupStep
  | mlupEmpty (dst : Nat)
  | mlupTop (dst : Nat)
  | mlupPop (dst : Nat)
  deriving DecidableEq, Repr

end Sys2Proof
end

