-- ==== Sys2Proof/WellFormed.lean ====
section
/-! DEFINITION. Which instruction terms a command word can carry: `arg` is 16 bits, `idx` is 8 bits
(spec/30_encoding.md R81, R84). -/

namespace Sys2Proof

/-- An operand carried by `arg` = CMD[15:0]. -/
def argFits (n : Nat) : Bool := decide (n < 2 ^ 16)

/-- An operand carried by `idx` = CMD[23:16]. -/
def idxFits (n : Nat) : Bool := decide (n < 2 ^ 8)

/-- Every operand fits the field that carries it (30_encoding.md R81). Whether an index names a source or
destination that exists is not syntax: the instance decides it (R84, R87). -/
def Instr.wf : Instr → Bool
  | .sysReset => true
  | .sysRdfault => true
  | .mpcCompress n => argFits n
  | .mpcTotu => true
  | .mpcTotc => true
  | .bdiCompress n => argFits n
  | .bdiTotu => true
  | .bdiTotc => true
  | .bdiRdstate => true
  | .fpcCompress n => argFits n
  | .fpcTotu => true
  | .fpcTotc => true
  | .bpcCompress n => argFits n
  | .bpcTotu => true
  | .bpcTotc => true
  | .cpackCompress n => argFits n
  | .cpackTotu => true
  | .cpackTotc => true
  | .sc2Compress n => argFits n
  | .sc2Totu => true
  | .sc2Totc => true
  | .engCompress n => argFits n
  | .engTotu => true
  | .engTotc => true
  | .dqPush _ _ _ => true
  | .dqPop => true
  | .cdqPush n => argFits n
  | .cdqTop => true
  | .cdqPop => true
  | .cdqFull => true
  | .lnkPush i => idxFits i
  | .lnkFull i => idxFits i
  | .lnkStep n => argFits n
  | .lnkEmpty i => idxFits i
  | .lnkTop i => idxFits i
  | .lnkPop i => idxFits i
  | .mldnPush i => idxFits i
  | .mldnFull i => idxFits i
  | .mldnStep => true
  | .mldnEmpty i => idxFits i
  | .mldnTop i => idxFits i
  | .mldnPop i => idxFits i
  | .mlupPush i => idxFits i
  | .mlupFull i => idxFits i
  | .mlupStep => true
  | .mlupEmpty i => idxFits i
  | .mlupTop i => idxFits i
  | .mlupPop i => idxFits i

end Sys2Proof
end

