-- ==== Sys2Proof/Decode.lean ====
section
/-! DEFINITION. The decoder, total on every 32-bit command word and rejecting by name, and the encoder
(spec/30_encoding.md R81 to R87; spec/opcode_table.json). -/

namespace Sys2Proof

/-- Why a word names no command (30_encoding.md R87): a reserved unit (13 to 15) or an unlisted verb. The
block answers either with `F_BADCMD`. -/
inductive DecodeReject where
  | reservedUnit (unit : Nat)
  | reservedVerb (unit verb : Nat)
  deriving DecidableEq, Repr

/-- The `width` bits of a command word from bit `lo` up, as an unsigned number (00_scope.md R10). -/
def wordField (w : Word32) (lo width : Nat) : Nat := w.toNat / 2 ^ lo % 2 ^ width

/-- `unit = CMD[31:28]` (30_encoding.md R81). -/
def cmdUnit (w : Word32) : Nat := wordField w 28 4

/-- `verb = CMD[27:24]` (30_encoding.md R81). -/
def cmdVerb (w : Word32) : Nat := wordField w 24 4

/-- `idx = CMD[23:16]` (30_encoding.md R81). -/
def cmdIdx (w : Word32) : Nat := wordField w 16 8

/-- `arg = CMD[15:0]` (30_encoding.md R81). -/
def cmdArg (w : Word32) : Nat := wordField w 0 16

/-- Flag bit `k` of `arg`, for `DQ.PUSH` (30_encoding.md R83). -/
def cmdFlag (w : Word32) (k : Nat) : Bool := wordField w k 1 == 1

/-- The command a word names, by `unit` and `verb` alone (30_encoding.md R83, R86). -/
def decode (w : Word32) : Except DecodeReject Instr :=
  match cmdUnit w with
  | 0 =>
    match cmdVerb w with
    | 0 => .ok .sysReset
    | 1 => .ok .sysRdfault
    | v => .error (.reservedVerb 0 v)
  | 1 =>
    match cmdVerb w with
    | 0 => .ok (.mpcCompress (cmdArg w))
    | 1 => .ok .mpcTotu
    | 2 => .ok .mpcTotc
    | v => .error (.reservedVerb 1 v)
  | 2 =>
    match cmdVerb w with
    | 0 => .ok (.bdiCompress (cmdArg w))
    | 1 => .ok .bdiTotu
    | 2 => .ok .bdiTotc
    | 3 => .ok .bdiRdstate
    | v => .error (.reservedVerb 2 v)
  | 3 =>
    match cmdVerb w with
    | 0 => .ok (.fpcCompress (cmdArg w))
    | 1 => .ok .fpcTotu
    | 2 => .ok .fpcTotc
    | v => .error (.reservedVerb 3 v)
  | 4 =>
    match cmdVerb w with
    | 0 => .ok (.bpcCompress (cmdArg w))
    | 1 => .ok .bpcTotu
    | 2 => .ok .bpcTotc
    | v => .error (.reservedVerb 4 v)
  | 5 =>
    match cmdVerb w with
    | 0 => .ok (.cpackCompress (cmdArg w))
    | 1 => .ok .cpackTotu
    | 2 => .ok .cpackTotc
    | v => .error (.reservedVerb 5 v)
  | 6 =>
    match cmdVerb w with
    | 0 => .ok (.sc2Compress (cmdArg w))
    | 1 => .ok .sc2Totu
    | 2 => .ok .sc2Totc
    | v => .error (.reservedVerb 6 v)
  | 7 =>
    match cmdVerb w with
    | 0 => .ok (.engCompress (cmdArg w))
    | 1 => .ok .engTotu
    | 2 => .ok .engTotc
    | v => .error (.reservedVerb 7 v)
  | 8 =>
    match cmdVerb w with
    | 0 => .ok (.dqPush (cmdFlag w 1) (cmdFlag w 0) (cmdFlag w 2))
    | 1 => .ok .dqPop
    | v => .error (.reservedVerb 8 v)
  | 9 =>
    match cmdVerb w with
    | 0 => .ok (.cdqPush (cmdArg w))
    | 1 => .ok .cdqTop
    | 2 => .ok .cdqPop
    | 3 => .ok .cdqFull
    | v => .error (.reservedVerb 9 v)
  | 10 =>
    match cmdVerb w with
    | 0 => .ok (.lnkPush (cmdIdx w))
    | 1 => .ok (.lnkFull (cmdIdx w))
    | 2 => .ok (.lnkStep (cmdArg w))
    | 3 => .ok (.lnkEmpty (cmdIdx w))
    | 4 => .ok (.lnkTop (cmdIdx w))
    | 5 => .ok (.lnkPop (cmdIdx w))
    | v => .error (.reservedVerb 10 v)
  | 11 =>
    match cmdVerb w with
    | 0 => .ok (.mldnPush (cmdIdx w))
    | 1 => .ok (.mldnFull (cmdIdx w))
    | 2 => .ok .mldnStep
    | 3 => .ok (.mldnEmpty (cmdIdx w))
    | 4 => .ok (.mldnTop (cmdIdx w))
    | 5 => .ok (.mldnPop (cmdIdx w))
    | v => .error (.reservedVerb 11 v)
  | 12 =>
    match cmdVerb w with
    | 0 => .ok (.mlupPush (cmdIdx w))
    | 1 => .ok (.mlupFull (cmdIdx w))
    | 2 => .ok .mlupStep
    | 3 => .ok (.mlupEmpty (cmdIdx w))
    | 4 => .ok (.mlupTop (cmdIdx w))
    | 5 => .ok (.mlupPop (cmdIdx w))
    | v => .error (.reservedVerb 12 v)
  | u => .error (.reservedUnit u)

/-- The command word of a (unit, verb) pair with an index and an argument: the fields that the command does
not use are written as zeros (30_encoding.md R81, R86). -/
def cmdWord (unit verb idx arg : Nat) : Word32 :=
  BitVec.ofNat 32 (unit * 2 ^ 28 + verb * 2 ^ 24 + idx * 2 ^ 16 + arg)

/-- `arg` of `DQ.PUSH`: bit 1 head, bit 0 tail, bit 2 "OP_TXN is a transaction" (30_encoding.md R83). -/
def dqPushArg (head tail hasTxn : Bool) : Nat :=
  4 * hasTxn.toNat + 2 * head.toNat + tail.toNat

/-- The command word of an instruction (30_encoding.md R83). -/
def encode : Instr → Word32
  | .sysReset => cmdWord 0 0 0 0
  | .sysRdfault => cmdWord 0 1 0 0
  | .mpcCompress n => cmdWord 1 0 0 n
  | .mpcTotu => cmdWord 1 1 0 0
  | .mpcTotc => cmdWord 1 2 0 0
  | .bdiCompress n => cmdWord 2 0 0 n
  | .bdiTotu => cmdWord 2 1 0 0
  | .bdiTotc => cmdWord 2 2 0 0
  | .bdiRdstate => cmdWord 2 3 0 0
  | .fpcCompress n => cmdWord 3 0 0 n
  | .fpcTotu => cmdWord 3 1 0 0
  | .fpcTotc => cmdWord 3 2 0 0
  | .bpcCompress n => cmdWord 4 0 0 n
  | .bpcTotu => cmdWord 4 1 0 0
  | .bpcTotc => cmdWord 4 2 0 0
  | .cpackCompress n => cmdWord 5 0 0 n
  | .cpackTotu => cmdWord 5 1 0 0
  | .cpackTotc => cmdWord 5 2 0 0
  | .sc2Compress n => cmdWord 6 0 0 n
  | .sc2Totu => cmdWord 6 1 0 0
  | .sc2Totc => cmdWord 6 2 0 0
  | .engCompress n => cmdWord 7 0 0 n
  | .engTotu => cmdWord 7 1 0 0
  | .engTotc => cmdWord 7 2 0 0
  | .dqPush head tail hasTxn => cmdWord 8 0 0 (dqPushArg head tail hasTxn)
  | .dqPop => cmdWord 8 1 0 0
  | .cdqPush n => cmdWord 9 0 0 n
  | .cdqTop => cmdWord 9 1 0 0
  | .cdqPop => cmdWord 9 2 0 0
  | .cdqFull => cmdWord 9 3 0 0
  | .lnkPush i => cmdWord 10 0 i 0
  | .lnkFull i => cmdWord 10 1 i 0
  | .lnkStep n => cmdWord 10 2 0 n
  | .lnkEmpty i => cmdWord 10 3 i 0
  | .lnkTop i => cmdWord 10 4 i 0
  | .lnkPop i => cmdWord 10 5 i 0
  | .mldnPush i => cmdWord 11 0 i 0
  | .mldnFull i => cmdWord 11 1 i 0
  | .mldnStep => cmdWord 11 2 0 0
  | .mldnEmpty i => cmdWord 11 3 i 0
  | .mldnTop i => cmdWord 11 4 i 0
  | .mldnPop i => cmdWord 11 5 i 0
  | .mlupPush i => cmdWord 12 0 i 0
  | .mlupFull i => cmdWord 12 1 i 0
  | .mlupStep => cmdWord 12 2 0 0
  | .mlupEmpty i => cmdWord 12 3 i 0
  | .mlupTop i => cmdWord 12 4 i 0
  | .mlupPop i => cmdWord 12 5 i 0

/-- The low `nbits` bits of `w` as a command word, the rest zero. A command is one 32-bit word on the
command port, so there is no byte order to apply (30_encoding.md R81). -/
def tableWord (nbits w : Nat) : Word32 := BitVec.ofNat 32 (w % 2 ^ nbits)

/-- The command that the decoder reads from the table's bits. -/
def decodeTableWord (nbits w : Nat) : Option Instr :=
  match decode (tableWord nbits w) with
  | .ok i => some i
  | .error _ => none

end Sys2Proof
end

