-- ==== Sys2Proof/Machine/Parts.lean ====
section
/-! DEFINITION. The parts of the machine's state: transactions, slots, the two queues, links, encoders
(spec/10_state.md R25 to R47). Plain data. -/

namespace Sys2Proof.Machine

/-- A transaction, held by value (10_state.md R32; 92_eei_decisions.md D4; log 5). The block reads `type`,
`len`, `payload` and `dst`; `id`, `src`, `mask` and `timestamps` are carried and never read. -/
structure Txn where
  type : BitVec 3
  len : Nat
  payload : Line
  dst : Nat
  id : Nat := 0
  src : Nat := 0
  mask : Option (List Bool) := none
  timestamps : List Nat := []
  deriving DecidableEq, Repr

/-- A plain slot, which is a flit (10_state.md R36, 30_encoding.md R90). -/
structure Slot where
  txn : Option Txn
  head : Bool
  tail : Bool
  deriving DecidableEq, Repr

/-- The empty slot, which is the empty flit (30_encoding.md R90). -/
def Slot.empty : Slot := { txn := none, head := false, tail := false }

/-- A Delay Queue's ring and pointers (10_state.md R35). -/
structure Dq where
  slots : List Slot
  rd : Nat
  wr : Nat
  deriving DecidableEq, Repr

/-- A compressed slot (10_state.md R38). -/
structure CSlot where
  txn : Option Txn
  size : Word32
  pushCycle : Word64
  deriving DecidableEq, Repr

/-- The empty compressed slot (10_state.md R37). -/
def CSlot.empty : CSlot := { txn := none, size := 0, pushCycle := 0 }

/-- A Compressed Delay Queue's ring, pointers and occupancy (10_state.md R37). -/
structure Cdq where
  slots : List CSlot
  rd : Nat
  wr : Nat
  count : Nat
  deriving DecidableEq, Repr

/-- The packet in progress of a link (10_state.md R41). -/
structure Packet where
  txn : Txn
  left : Nat
  first : Bool
  deriving DecidableEq, Repr

/-- One Oneway Link. A plain link uses `ready`, `done`, `dq`, `rr`, `cur` (10_state.md R39 to R41); a compressed
link uses all fields but `ready` (R42 to R45). The fields that a kind does not have stay at their reset values. -/
structure Link where
  ready : List (List Txn)
  readyLong : List (List Txn)
  readyShort : List (List Txn)
  done : List (List Txn)
  dq : Dq
  cdq : Cdq
  rr : Nat
  crr : Nat
  cur : Option Packet
  leftover : Nat
  leftoverNodata : Nat
  cycle : Word64
  deriving DecidableEq, Repr

/-- The running totals of an encoder, in bits, modulo 2^64 (10_state.md R25). -/
structure Totals where
  unc : Word64
  cmp : Word64
  deriving DecidableEq, Repr

/-- A CPACK dictionary entry: byte k is the byte at offset k of the word (20_memory.md R64). -/
structure Quad where
  b0 : Byte
  b1 : Byte
  b2 : Byte
  b3 : Byte
  deriving DecidableEq, Repr

/-- The CPACK dictionary, oldest entry first (10_state.md R29). -/
abbrev Dict := List Quad

/-- A finite map from symbols to numbers, as pairs with rising symbols (10_state.md R30; log 20). -/
abbrev SymMap := List (Word32 × Nat)

/-- The two phases of SC2 (10_state.md R30). -/
inductive Phase where
  | sampling | steady
  deriving DecidableEq, Repr

/-- The state of an SC2 encoder besides its totals (10_state.md R30). -/
structure Sc2 where
  calls : Nat
  phase : Phase
  freq : SymMap
  codelen : SymMap
  deriving DecidableEq, Repr

/-- The shared compression engine: one encoder with the state of 10_state.md R25 to R31 (R47). Which parts
`COMPRESS` uses is decided by `ALG`. -/
structure Engine where
  tot : Totals
  bdiState : BitVec 4
  dict : Dict
  sc2 : Sc2
  deriving DecidableEq, Repr

/-- The fault codes 1 to 8 of 60_exceptions.md R346. -/
inductive FaultCode where
  | badCmd | badLen | badType | badDst | readyFull | cdqFull | doneOverflow | config
  deriving DecidableEq, Repr

/-- One command as the host presents it: the command word and the operand latches that the host writes with
it; a latch given as `none` keeps what it holds (10_state.md R22; log 3). -/
structure Command where
  word : Word32
  txn : Option Txn := none
  line : Option Line := none
  bw : Option Nat := none
  now : Option Word64 := none
  deriving DecidableEq, Repr

/-- What the host can do to the block: issue a command, or pull the reset pin (70_reset_and_hazards.md R380). -/
inductive HostEvent where
  | command (c : Command)
  | resetPin
  deriving DecidableEq, Repr

end Sys2Proof.Machine
end

