-- ==== Sys2Proof/Machine/Flags.lean ====
section
/-! DEFINITION. The flag-like values of the block (spec/10_state.md R23): the numbers latched in FAULT, the
BDI state codes, the type tag's classes, the head and tail flags of a flit, and the range tests from which
the encoders' categories are computed. -/

namespace Sys2Proof.Machine

/-- The value latched in `FAULT` (60_exceptions.md R346). -/
def FaultCode.code : FaultCode → BitVec 8
  | .badCmd => 1
  | .badLen => 2
  | .badType => 3
  | .badDst => 4
  | .readyFull => 5
  | .cdqFull => 6
  | .doneOverflow => 7
  | .config => 8

/-- An unrecognised transaction type: tags 4 to 7 (30_encoding.md R89). -/
def Txn.badType (t : Txn) : Bool := decide (3 < t.type.toNat)

/-- `long(t)`: ReadReply (1) or WriteRequest (2) (10_state.md R34). -/
def Txn.long (t : Txn) : Bool := t.type == 1 || t.type == 2

/-- `short(t)`: ReadRequest (0) or WriteAck (3) (10_state.md R34). -/
def Txn.short (t : Txn) : Bool := t.type == 0 || t.type == 3

/-- BDI state code of a line of zeros (10_state.md R28). -/
def bdiZeros : BitVec 4 := 0

/-- BDI state code of a repeated word (10_state.md R28). -/
def bdiRepeat : BitVec 4 := 1

/-- BDI state code of configuration q = 0..5 (41_bdi.md R154). -/
def bdiConfigState (q : Nat) : BitVec 4 := BitVec.ofNat 4 (2 + q)

/-- BDI state code Uncompressed, the reset value (10_state.md R28). -/
def bdiUncompressed : BitVec 4 := 8

/-- The flit that the packet in progress pushes next: head on its first flit, tail on its last
(47_oneway_link.md R270, R274). -/
def Packet.flit (c : Packet) : Slot :=
  { txn := some c.txn, head := c.first, tail := c.left == 1 }

/-- What is left of the packet after one flit, none after the last (47_oneway_link.md R270). -/
def Packet.rest (c : Packet) : Option Packet :=
  if c.left - 1 = 0 then none else some { c with left := c.left - 1, first := false }

/-- `sext_N(v)` of an N-bit pattern (00_scope.md R11). -/
def sext (bits v : Nat) : Int :=
  if v < 2 ^ (bits - 1) then (v : Int) else (v : Int) - 2 ^ bits

/-- Is v in -2^(bits-1) .. 2^(bits-1)-1, the range of a `bits`-bit signed number (00_scope.md R11)? -/
def inSigned (bits : Nat) (v : Int) : Bool :=
  decide (-(2 ^ (bits - 1) : Int) ≤ v ∧ v < 2 ^ (bits - 1))

/-- Number of set bits of a row or plane (00_scope.md R11). -/
def popcount (bs : List Bool) : Nat := bs.countP id

/-- Every position is 0. -/
def allZeroBits (bs : List Bool) : Bool := bs.all (!·)

/-- Two neighbouring positions that are both 1. -/
def hasAdjacentOnes : List Bool → Bool
  | a :: b :: rest => (a && b) || hasAdjacentOnes (b :: rest)
  | _ => false

end Sys2Proof.Machine
end

