-- ==== Sys2Proof/Machine/Operands.lean ====
section
/-! DEFINITION. How a command's operands are formed: the line and its words (spec/00_scope.md R12, R15;
spec/20_memory.md R62 to R68), the admitted byte counts (R66), the bandwidth (spec/30_encoding.md R84). -/

namespace Sys2Proof.Machine

/-- `MemRead(addr, n)`: n bytes of the line from an offset (00_scope.md R12). -/
def memRead (line : Line) (addr n : Nat) : Line := (line.drop addr).take n

/-- Little-endian value: the first byte is least significant (20_memory.md R62). -/
def leValue : Line → Nat
  | [] => 0
  | b :: rest => b.toNat + 256 * leValue rest

/-- `MemReadLE(addr, n)` (00_scope.md R12). -/
def memReadLE (line : Line) (addr n : Nat) : Nat := leValue (memRead line addr n)

/-- The line's words of `width` bytes as unsigned numbers, in offset order (20_memory.md R62, R63). -/
def lineWords (width : Nat) (line : Line) : List Nat :=
  (List.range (line.length / width)).map fun i => memReadLE line (width * i) width

/-- The line's words of `width` bytes, sign-extended (41_bdi.md R155, 43_bpc.md R186). -/
def signedWords (width : Nat) (line : Line) : List Int :=
  (lineWords width line).map (sext (8 * width))

/-- The bytes that `OP_LINE` holds of those the host writes: the latch is up to 128 bytes wide (10_state.md R22; log 35). -/
def lineLatch (bytes : Line) : Line := bytes.take 128

/-- The line of `n` bytes that an encoder reads from the bytes the host supplied (00_scope.md R15). A byte
the host did not supply is a free value (log 6). -/
def lineOf (supplied : Line) (n : Nat) : Line :=
  if n ≤ supplied.length then supplied.take n
  else supplied ++ (List.range (n - supplied.length)).map fun i =>
    Config.unsuppliedByte supplied (supplied.length + i)

/-- The unit of length of an encoder in bytes (20_memory.md R66). -/
def lineUnit : Alg → Nat
  | .mpc => 32
  | .bdi => 8
  | .fpc => 4
  | .bpc => 4
  | .cpack => 4
  | .sc2 => 4

/-- Is the byte count admitted for the encoder (20_memory.md R66)? -/
def admitted (p : Params) (a : Alg) (n : Nat) : Bool :=
  decide (n ≠ 0 ∧ n % lineUnit a = 0 ∧ n ≤ p.maxLineBytes)

/-- The line operand of a COMPRESS, or F_BADLEN before a byte is read (60_exceptions.md R354). -/
def lineOperand (p : Params) (a : Alg) (supplied : Line) (n : Nat) : Except FaultCode Line :=
  if admitted p a n then .ok (lineOf supplied n) else .error .badLen

/-- `OP_BW` as 16 integer and `BW_FRAC` fractional bits, in units of 2^-BW_FRAC (30_encoding.md R84). -/
def bwOperand (p : Params) (bw : Nat) : Nat := bw % 2 ^ (16 + p.bwFrac)

/-- The flit budget of a memory-link step: floor of bandwidth plus remainder (49_memory_link.md R332). -/
def bwBudget (p : Params) (bw rem : Nat) : Nat := (bwOperand p bw + rem) / 2 ^ p.bwFrac

/-- The remainder carried to the next memory-link step (49_memory_link.md R332). -/
def bwRemainder (p : Params) (bw rem : Nat) : Nat := (bwOperand p bw + rem) % 2 ^ p.bwFrac

/-- The totals after one completed COMPRESS (00_scope.md R15). -/
def Totals.add (t : Totals) (byteCount bits : Nat) : Totals :=
  { unc := t.unc + BitVec.ofNat 64 (8 * byteCount), cmp := t.cmp + BitVec.ofNat 64 bits }

/-- The `RES` latch of a bit count (10_state.md R22; log 19). -/
def resOfBits (bits : Nat) : Word32 := BitVec.ofNat 32 bits

/-- The `RES` latch of a Boolean result (10_state.md R22). -/
def resOfBool (b : Bool) : Word32 := if b then 1 else 0

end Sys2Proof.Machine
end

