-- ==== Sys2Proof/Machine/ConfigCheck.lean ====
section
/-! DEFINITION. Which static configurations are valid (spec/40_mpc.md R110, R129; spec/60_exceptions.md R353). -/

namespace Sys2Proof.Machine

/-- An entry of a scan table as one number: plane k and position i (40_mpc.md R110). -/
def scanCode (e : Nat × Nat) : Nat := 32 * e.1 + e.2

/-- The scan table is a bijection from R rows of C columns onto planes 0..7 and positions 0..31
(40_mpc.md R110): 256 entries in range which together cover all 256 targets. -/
def scanOk (rows cols : Nat) (scan : List (List (Nat × Nat))) : Bool :=
  scan.length == rows
    && scan.all (fun r => r.length == cols)
    && scan.flatten.length == 256
    && scan.flatten.all (fun e => decide (e.1 < 8) && decide (e.2 < 32))
    && scan.flatten.foldl (fun acc e => acc ||| 2 ^ scanCode e) 0 == 2 ^ 256 - 1

/-- The predictor's name is recognised (60_exceptions.md R345) and its tables have their shape (40_mpc.md R110; DOC0's
weight table has none, R116). -/
def predictorOk : Predictor → Bool
  | .weightBase _ => true
  | .diffBase base off =>
    base.length == 32 && off.length == 32
      && base.all (fun b => match b with | none => true | some j => decide (j < 32))
      && off.all (fun o => decide (-128 ≤ o ∧ o ≤ 127))
  | .oneBase root => decide (root < 32)
  | .consecutiveBase => true
  | .unrecognised => false

/-- A module descriptor is recognised and well-shaped (40_mpc.md R110, R129). -/
def moduleOk (rows cols : Nat) (m : MpcModule) : Bool :=
  match m.kind with
  | .allZero => true
  | .allWordSame => true
  | .predComp g => predictorOk g.pred && scanOk rows cols g.scan && g.bitplaneKnown && g.patternKnown
  | .unrecognised => false

/-- Is the module a general one? -/
def isPredModule (m : MpcModule) : Bool :=
  match m.kind with
  | .predComp _ => true
  | _ => false

/-- Every fast-path module stands before every general one (40_mpc.md R110). -/
def fastFirst : List MpcModule → Bool
  | [] => true
  | m :: rest => if isPredModule m then rest.all isPredModule else fastFirst rest

/-- `MPC_CFG` is valid (40_mpc.md R110). -/
def mpcCfgOk (rows cols : Nat) (c : MpcCfg) : Bool :=
  decide (c.modules.countP (fun m => m.kind == .allZero) ≤ 1)
    && decide (c.modules.countP (fun m => m.kind == .allWordSame) ≤ 1)
    && c.modules.any isPredModule
    && fastFirst c.modules
    && decide (0 < c.lineSize ∧ c.lineSize % 32 = 0)
    && c.modules.all (moduleOk rows cols)

/-- The parameters of a Delay Queue are in range (60_exceptions.md R353). -/
def dqParamsOk (p : DqParams) : Bool := decide (1 ≤ p.size ∧ 1 ≤ p.latency)

/-- The parameters of a Compressed Delay Queue are in range (60_exceptions.md R353). -/
def cdqParamsOk (p : CdqParams) : Bool := decide (1 ≤ p.size)

/-- The parameters of a link are in range (60_exceptions.md R353); only a compressed link has a compressed
queue (log 10). -/
def linkParamsOk (p : LinkParams) : Bool :=
  decide (1 ≤ p.sources ∧ p.sources ≤ 256)
    && decide (1 ≤ p.dests ∧ p.dests ≤ 256)
    && decide (1 ≤ p.flitBits)
    && decide (1 ≤ p.headBits)
    && dqParamsOk p.dq
    && (p.kind == .plain || cdqParamsOk p.cdq)
    && decide (1 ≤ p.readyDepth)
    && (match p.doneDepth with | none => true | some d => decide (1 ≤ d))

/-- Does the instance contain an MPC encoder: the unit, or the engine with `ALG` = MPC (60_exceptions.md R353)? -/
def instanceHasMpc (p : Params) : Bool := p.has .mpc || p.alg == some .mpc

/-- No cause of `F_CONFIG` holds (60_exceptions.md R353). The parameters of a unit that the instance leaves
out do not exist and are not tested (log 10). -/
def configOk (p : Params) : Bool :=
  p.alg.isSome
    && (!(instanceHasMpc p) || mpcCfgOk p.mpcRows p.mpcCols p.mpc)
    && (!(p.has .dq) || dqParamsOk p.dq)
    && (!(p.has .cdq) || cdqParamsOk p.cdq)
    && (!(p.has .lnk) || linkParamsOk p.lnk)
    && (!(p.has .mldn) || linkParamsOk p.dn)
    && (!(p.has .mlup) || linkParamsOk p.up)

end Sys2Proof.Machine
end

