-- ==== Sys2Proof/Machine/ResetValues.lean ====
section
/-! DEFINITION. The reset value of every part of the state (spec/70_reset_and_hazards.md R380). -/

namespace Sys2Proof.Machine

/-- `FAULT` after reset: 0, or `F_CONFIG` on an invalid configuration (R380; 60_exceptions.md R353). -/
def resetFault (p : Params) : BitVec 8 :=
  if configOk p then 0 else FaultCode.code .config

/-- Totals after reset (R380). -/
def resetTotals : Totals := { unc := 0, cmp := 0 }

/-- Sixteen entries 00 00 00 00 (R380; 10_state.md R29). -/
def resetDict : Dict := List.replicate 16 { b0 := 0, b1 := 0, b2 := 0, b3 := 0 }

/-- SC2 after reset; with T = 0 the table is built at once from the empty map, and so is empty (R380, R383). -/
def resetSc2 (p : Params) : Sc2 where
  calls := 0
  phase := if p.sc2WarmupCalls = 0 then .steady else .sampling
  freq := []
  codelen := []

/-- The engine after reset (R380). -/
def resetEngine (p : Params) : Engine where
  tot := resetTotals
  bdiState := bdiUncompressed
  dict := resetDict
  sc2 := resetSc2 p

/-- A Delay Queue after reset: empty slots, `wr` ahead of `rd` by the latency (R380; 10_state.md R36). -/
def resetDq (p : DqParams) : Dq where
  slots := List.replicate p.cap Slot.empty
  rd := 0
  wr := p.latency % p.cap

/-- A Compressed Delay Queue after reset (R380; 10_state.md R37). -/
def resetCdq (p : CdqParams) : Cdq where
  slots := List.replicate p.cap CSlot.empty
  rd := 0
  wr := 0
  count := 0

/-- A link after reset (R380; 10_state.md R39 to R45). -/
def resetLink (p : LinkParams) : Link where
  ready := List.replicate p.sources []
  readyLong := List.replicate p.sources []
  readyShort := List.replicate p.sources []
  done := List.replicate p.dests []
  dq := resetDq p.dq
  cdq := resetCdq p.cdq
  rr := 0
  crr := 0
  cur := none
  leftover := 0
  leftoverNodata := 0
  cycle := 0

/-- The transaction on `OP_TXN` before the host writes one. DESIGN CHOICE (log 4). -/
def resetTxn : Txn := { type := 0, len := 0, payload := [], dst := 0 }

/-- The bytes on `OP_LINE` before the host writes any. DESIGN CHOICE (log 4). -/
def resetLine : Line := List.replicate 128 0

end Sys2Proof.Machine
end

