-- ==== Sys2Proof/Machine/State.lean ====
section
/-! DEFINITION. The machine's state, its two reasons to stop and its reset state (spec/10_state.md;
spec/70_reset_and_hazards.md R380). Plain data. -/

namespace Sys2Proof.Machine

/-- Everything spec/10_state.md gives the block, and two fields of the model's own: `cfg`, the static
parameters (log 1), and `inbox`, what the host has still to do (log 3). -/
structure State where
  /-- The static parameters (00_scope.md R8). The model's own field: no step writes it (R50; log 1). -/
  cfg : Params
  /-- The host's commands and reset pulls to come. The model's own field (log 3). -/
  inbox : List HostEvent
  /-- Command-port inputs (R22); `opLine` holds at most 128 bytes. -/
  cmd : Word32
  opTxn : Txn
  opLine : Line
  opBw : Nat
  opNow : Word64
  /-- Command-port results (R22). -/
  res : Word32
  resTxn : Option Txn
  resValid : Bool
  res64 : Word64
  /-- The fault register (R24). -/
  fault : BitVec 8
  /-- Totals of the encoder units 1 to 6 (R25). -/
  mpcTot : Totals
  bdiTot : Totals
  fpcTot : Totals
  bpcTot : Totals
  cpackTot : Totals
  sc2Tot : Totals
  /-- The BDI status latch (R28). -/
  bdiState : BitVec 4
  /-- The CPACK dictionary of unit 5 (R29). -/
  cpackDict : Dict
  /-- The SC2 state of unit 6 (R30). -/
  sc2 : Sc2
  /-- The shared compression engine (R47). -/
  engine : Engine
  /-- The standalone queues, units 8 and 9 (R35 to R38). -/
  dq : Dq
  cdq : Cdq
  /-- The standalone link, unit 10 (R39 to R45). -/
  lnk : Link
  /-- The Memory Link's two links and remainders (R46). -/
  dn : Link
  up : Link
  remDn : Nat
  remUp : Nat
  deriving DecidableEq, Repr

/-- The reasons a step could stop the machine with a fault: none. Every command, and every word that is no
command, has a next state: a fault of this block is a value latched in FAULT, and a refused command leaves
the state as it was but for the result latches (60_exceptions.md R349, R350, R363; log 26). Safe: nothing is
left out by it. -/
inductive Fault : Type
  deriving DecidableEq, Repr

/-- The reasons a step could refuse to give a meaning. -/
inductive Refusal where
  /-- Raised only by an arm of exec that has no meaning yet; no arm is left so. Safe. -/
  | notModelled (mnemonic : String)
  deriving DecidableEq, Repr

/-- Every piece of state at the value of 70_reset_and_hazards.md R380, for an instance with parameters `p`. The
input latches, which reset does not touch, stand at the values of log 4. -/
def State.resetFor (p : Params) : State where
  cfg := p
  inbox := []
  cmd := 0
  opTxn := resetTxn
  opLine := resetLine
  opBw := 0
  opNow := 0
  res := 0
  resTxn := none
  resValid := false
  res64 := 0
  fault := resetFault p
  mpcTot := resetTotals
  bdiTot := resetTotals
  fpcTot := resetTotals
  bpcTot := resetTotals
  cpackTot := resetTotals
  sc2Tot := resetTotals
  bdiState := bdiUncompressed
  cpackDict := resetDict
  sc2 := resetSc2 p
  engine := resetEngine p
  dq := resetDq p.dq
  cdq := resetCdq p.cdq
  lnk := resetLink p.lnk
  dn := resetLink p.dnLink
  up := resetLink p.upLink
  remDn := 0
  remUp := 0

/-- The machine right after reset, with the instance of log 2. -/
def State.reset : State := State.resetFor exampleParams

end Sys2Proof.Machine
end

