-- ==== Sys2Proof/Machine/Ops.lean ====
section
/-! DEFINITION. The named operations shared by the commands: taking a fault (spec/60_exceptions.md R349), refusing
a command (R350), running a command in that discipline, FIFOs (spec/00_scope.md R13), the two rings
(spec/46_delay_queues.md R241, R242, R252 to R255). There is no return from a fault but reset (R363). -/

namespace Sys2Proof.Machine

/-- The result latches as `raise` and a refusal leave them (60_exceptions.md R349, third line). -/
def State.clearResults (s : State) : State :=
  { s with res := 0, res64 := 0, resTxn := none, resValid := false }

/-- `raise F_x` from the state before the command: nothing but FAULT and the result latches changes
(60_exceptions.md R348, R349). No pc, mode or mask is saved: there is none (R362). -/
def raise (f : FaultCode) (s : State) : State :=
  { s.clearResults with fault := f.code }

/-- The refusal of a command while FAULT is not 0 (60_exceptions.md R350). -/
def refuse (s : State) : State := s.clearResults

/-- The output pin `fault` (10_state.md R24). -/
def State.faultPin (s : State) : Bool := s.fault != 0

/-- One command of a unit: refused while FAULT is not 0 (60_exceptions.md R350); illegal if the instance lacks the
unit (30_encoding.md R87), which is tested before the verb's own rule (R352); else the verb's own rule, which
answers the state after the command or the first fault it raises. -/
def runCommand (u : UnitId) (body : State → Except FaultCode State) (s : State) :
    Host.Outcome State Fault Refusal :=
  if s.fault ≠ 0 then .next (refuse s)
  else if s.cfg.has u = false then .next (raise .badCmd s)
  else
    match body s with
    | .ok t => .next t
    | .error f => .next (raise f s)

/-- A word that names no command (30_encoding.md R87), refused like any other while FAULT is not 0 (R350). -/
def illegalCommand (s : State) : Host.Outcome State Fault Refusal :=
  if s.fault ≠ 0 then .next (refuse s) else .next (raise .badCmd s)

/-- Reset by the pin or by SYS.RESET: every value of 70_reset_and_hazards.md R380. The parameters and the input
latches are not reset (R380, R382), and the host's commands to come are the host's. -/
def State.reinit (s : State) : State :=
  { State.resetFor s.cfg with
    inbox := s.inbox, cmd := s.cmd, opTxn := s.opTxn, opLine := s.opLine, opBw := s.opBw, opNow := s.opNow }

/-- The queue at an index of an array of queues. -/
def queueAt (qs : List (List Txn)) (i : Nat) : List Txn := qs.getD i []

/-- `q.enq(x)` on the queue at an index (00_scope.md R13). -/
def enqAt (qs : List (List Txn)) (i : Nat) (t : Txn) : List (List Txn) :=
  qs.set i (queueAt qs i ++ [t])

/-- `q.deq()` on the queue at an index, without its result (00_scope.md R13). -/
def deqAt (qs : List (List Txn)) (i : Nat) : List (List Txn) :=
  qs.set i (queueAt qs i).tail

/-- `p <- (p + 1) mod cap` (20_memory.md R70). -/
def advance (cap p : Nat) : Nat := (p + 1) % cap

/-- Delay Queue push (46_delay_queues.md R241). -/
def dqPush (p : DqParams) (q : Dq) (f : Slot) : Dq :=
  { q with slots := q.slots.set q.wr f, wr := advance p.cap q.wr }

/-- The transaction that a slot delivers: its own if the tail flag is set (46_delay_queues.md R242). -/
def slotDelivers (f : Slot) : Option Txn := if f.tail then f.txn else none

/-- The transaction that the next Delay Queue pop returns (46_delay_queues.md R242). -/
def dqHead (q : Dq) : Option Txn := slotDelivers (q.slots.getD q.rd Slot.empty)

/-- The Delay Queue after a pop (46_delay_queues.md R242), with `DQ_POP_CLEARS`. -/
def dqAfterPop (p : DqParams) (q : Dq) : Dq :=
  { q with
    slots := if p.popClears then q.slots.set q.rd Slot.empty else q.slots
    rd := advance p.cap q.rd }

/-- `count = cap` (46_delay_queues.md R253). -/
def cdqFull (p : CdqParams) (q : Cdq) : Bool := q.count == p.cap

/-- Compressed Delay Queue push (46_delay_queues.md R252). -/
def cdqPush (p : CdqParams) (q : Cdq) (t : Txn) (size : Word32) (now : Word64) : Except FaultCode Cdq :=
  if cdqFull p q then .error .cdqFull
  else
    .ok
      { slots := q.slots.set q.wr { txn := some t, size := size, pushCycle := now }
        rd := q.rd
        wr := advance p.cap q.wr
        count := q.count + 1 }

/-- The head slot of the Compressed Delay Queue when it is visible: `count > 0` and
`now > pushCycle + CDQ_LATENCY`, in unbounded integers (46_delay_queues.md R254; 00_scope.md R11). -/
def cdqTop (p : CdqParams) (q : Cdq) (now : Word64) : Option CSlot :=
  let c := q.slots.getD q.rd CSlot.empty
  if 0 < q.count ∧ c.pushCycle.toNat + p.latency < now.toNat then some c else none

/-- The Compressed Delay Queue after a pop: nothing on an empty queue (46_delay_queues.md R255). -/
def cdqAfterPop (p : CdqParams) (q : Cdq) : Cdq :=
  if 0 < q.count then
    { slots := q.slots.set q.rd CSlot.empty
      rd := advance p.cap q.rd
      wr := q.wr
      count := q.count - 1 }
  else q

end Sys2Proof.Machine
end

