-- ==== Sys2Proof/Machine/Bdi.lean ====
section
/-! DEFINITION. The Base-Delta-Immediate encoder (spec/41_bdi.md): BDI.COMPRESS, BDI.TOTU, BDI.TOTC,
BDI.RDSTATE. -/

namespace Sys2Proof.Machine

/-- The six configurations (baseSize, deltaSize) in evaluation order (R154). -/
def bdiConfigs : List (Nat × Nat) := [(8, 1), (8, 2), (8, 4), (4, 1), (4, 2), (2, 1)]

/-- `fits(v, D)`: v is in the range of a D-byte signed number (R155). -/
def fits (v : Int) (d : Nat) : Bool := inSigned (8 * d) v

/-- `sig(v)` of `reduceSign`: the least w >= 1 such that v is in the range of a w-bit signed number (R155), for
v of at most 64 bits. -/
def reduceSign (v : Int) : Nat :=
  ((List.range' 1 64).find? fun w => inSigned w v).getD 65

/-- `sext_64((v - base) mod 2^64)` (R156, R157). -/
def wrappedDistance (v base : Int) : Int := sext 64 ((v - base) % 2 ^ 64).toNat

/-- `maskBits`: one per word, unless `BDI_MASK_BITS` says otherwise for n (R156; log 15). -/
def bdiMask (p : Params) (n : Nat) : Nat := (p.bdiMaskBits.lookup n).getD n

/-- Bytes of the non-immediate words: the base whole and deltas for the others if every distance fits, else
every word whole (R156; `BDI_DELTA_FOR_BASE_WORD` of 92_eei_decisions.md D23). -/
def bdiRemainderBytes (p : Params) (b d : Nat) : List Int → Nat
  | [] => 0
  | base :: others =>
    if others.all fun v => fits (wrappedDistance v base) d then
      b + others.length * d + (if p.bdiDeltaForBaseWord then d else 0)
    else (others.length + 1) * b

/-- `ConfigCost(line, byteCount, B, D)` (R156). -/
def configCost (p : Params) (line : Line) (b d : Nat) : Nat :=
  let words := signedWords b line
  let immediates := words.filter fun v => fits v d
  let others := words.filter fun v => !fits v d
  bdiMask p words.length + 8 * (immediates.length * d + bdiRemainderBytes p b d others)

/-- The earliest configuration of least cost, as (index, cost) (R153, strict comparison). -/
def cheapestConfig (p : Params) (line : Line) : List (Nat × (Nat × Nat)) → Option (Nat × Nat)
  | [] => none
  | (q, (b, d)) :: rest =>
    let c := configCost p line b d
    match cheapestConfig p line rest with
    | none => some (q, c)
    | some (q', c') => if c' < c then some (q', c') else some (q, c)

/-- Every byte of the line is 0 (R151). -/
def bdiAllZero (line : Line) : Bool := line.all (· == 0)

/-- Every 8-byte word equals the first (R152). -/
def bdiRepeated (line : Line) : Bool :=
  (lineWords 8 line).all fun w => w == memReadLE line 0 8

/-- `BdiSelect(line, byteCount)`: the state and the body's bits (R153). -/
def bdiSelect (p : Params) (line : Line) : BitVec 4 × Nat :=
  if bdiAllZero line then (bdiZeros, 8)
  else if bdiRepeated line then (bdiRepeat, 64)
  else
    match cheapestConfig p line (bdiConfigs.zipIdx.map fun e => (e.2, e.1)) with
    | some (q, c) => if c < 8 * line.length then (bdiConfigState q, c) else (bdiUncompressed, 8 * line.length)
    | none => (bdiUncompressed, 8 * line.length)

/-- The bits of a line: 4 for the state and the body (R150). -/
def bdiBits (p : Params) (line : Line) : Nat := 4 + (bdiSelect p line).2

/-- `BDI.COMPRESS` (R150). -/
def execBdiCompress (byteCount : Nat) (s : State) : Host.Outcome State Fault Refusal :=
  runCommand .bdi (fun s => do
    let line ← lineOperand s.cfg .bdi s.opLine byteCount
    let bits := bdiBits s.cfg line
    .ok { s with
      bdiState := (bdiSelect s.cfg line).1
      bdiTot := s.bdiTot.add byteCount bits
      res := resOfBits bits }) s

/-- `BDI.TOTU` (30_encoding.md R85). -/
def execBdiTotu (s : State) : Host.Outcome State Fault Refusal :=
  runCommand .bdi (fun s => .ok { s with res64 := s.bdiTot.unc }) s

/-- `BDI.TOTC` (30_encoding.md R85). -/
def execBdiTotc (s : State) : Host.Outcome State Fault Refusal :=
  runCommand .bdi (fun s => .ok { s with res64 := s.bdiTot.cmp }) s

/-- `BDI.RDSTATE` (R158). -/
def execBdiRdstate (s : State) : Host.Outcome State Fault Refusal :=
  runCommand .bdi (fun s => .ok { s with res := s.bdiState.setWidth 32 }) s

end Sys2Proof.Machine
end

