-- ==== Sys2Proof/Machine/Bpc.lean ====
section
/-! DEFINITION. The Bit-Plane encoder (spec/43_bpc.md): BPC.COMPRESS, BPC.TOTU, BPC.TOTC. -/

namespace Sys2Proof.Machine

/-- Row-to-row differences as 33-bit two's-complement patterns (R186). -/
def bpcDeltas : List Int → List Nat
  | x :: y :: rest => ((y - x) % 2 ^ 33).toNat :: bpcDeltas (y :: rest)
  | _ => []

/-- `DBP[c]`: bit c of every delta (R187). -/
def deltaPlane (deltas : List Nat) (c : Nat) : List Bool := deltas.map fun d => d.testBit c

/-- `DBX[c]`: the plane XORed with the one above it, the top plane unchanged (R187). -/
def xorPlane (deltas : List Nat) (c : Nat) : List Bool :=
  if c = 32 then deltaPlane deltas 32
  else List.zipWith Bool.xor (deltaPlane deltas c) (deltaPlane deltas (c + 1))

/-- The lower bound of the n-bit range of the first word: -2^(n-1), unless `BPC_LOWER_BOUND` says otherwise
for n (R190; log 15). -/
def bpcLower (p : Params) (n : Nat) : Int := (p.bpcLowerBound.lookup n).getD (-(2 ^ (n - 1)))

/-- Is the first word in the n-bit range (R189)? -/
def bpcInRange (p : Params) (n : Nat) (x : Int) : Bool :=
  decide (bpcLower p n ≤ x ∧ x < 2 ^ (n - 1))

/-- `FirstWordCost(x)`, first condition that holds (R189); `BPC_FIRSTWORD_ALWAYS_ZERO` is R190's literal branch. -/
def firstWordCost (p : Params) (x : Int) : Nat :=
  if p.bpcFirstWordAlwaysZero = true ∨ x = 0 then 3
  else if bpcInRange p 4 x then 7
  else if bpcInRange p 8 x then 11
  else if bpcInRange p 16 x then 19
  else 33

/-- `BPC_ZRL_COST[L]`: 3 for one plane and 7 for more, unless the parameter says otherwise (R192; log 16). -/
def zrlCost (p : Params) (run : Nat) : Nat :=
  (p.bpcZrlCost.lookup run).getD (if run = 1 then 3 else 7)

/-- The cost of a zero run that is flushed; no code for an empty one (R188). -/
def flushedRun (p : Params) (run : Nat) : Nat := if 0 < run then zrlCost p run else 0

/-- `PlaneCost(dbp, dbx)` of a plane with a non-zero DBX, first match (R191). -/
def planeCost (dbp dbx : List Bool) : Nat :=
  if allZeroBits dbp then 5
  else if dbx.all id then 5
  else if popcount dbx = 1 then 10
  else if popcount dbx = 2 ∧ hasAdjacentOnes dbx = true then 10
  else 32

/-- The plane costs of columns c-1 down to 0, with `run` zero planes just above them (R188). -/
def planesCost (p : Params) (deltas : List Nat) : Nat → Nat → Nat
  | run, 0 => flushedRun p run
  | run, c + 1 =>
    let dbx := xorPlane deltas c
    if allZeroBits dbx then planesCost p deltas (run + 1) c
    else flushedRun p run + planeCost (deltaPlane deltas c) dbx + planesCost p deltas 0 c

/-- `BpcCost(line, byteCount)` over the 33 columns (R188). -/
def bpcBits (p : Params) (line : Line) : Nat :=
  let rows := signedWords 4 line
  firstWordCost p (rows.headD 0) + planesCost p (bpcDeltas rows) 0 33

/-- `BPC.COMPRESS` (R185). -/
def execBpcCompress (byteCount : Nat) (s : State) : Host.Outcome State Fault Refusal :=
  runCommand .bpc (fun s => do
    let line ← lineOperand s.cfg .bpc s.opLine byteCount
    let bits := bpcBits s.cfg line
    .ok { s with bpcTot := s.bpcTot.add byteCount bits, res := resOfBits bits }) s

/-- `BPC.TOTU` (30_encoding.md R85). -/
def execBpcTotu (s : State) : Host.Outcome State Fault Refusal :=
  runCommand .bpc (fun s => .ok { s with res64 := s.bpcTot.unc }) s

/-- `BPC.TOTC` (30_encoding.md R85). -/
def execBpcTotc (s : State) : Host.Outcome State Fault Refusal :=
  runCommand .bpc (fun s => .ok { s with res64 := s.bpcTot.cmp }) s

end Sys2Proof.Machine
end

