-- ==== Sys2Proof/Machine/Cpack.lean ====
section
/-! DEFINITION. The dictionary word encoder (spec/44_cpack.md): CPACK.COMPRESS, CPACK.TOTU, CPACK.TOTC. -/

namespace Sys2Proof.Machine

/-- The four bytes of a line at an offset, in address order (R205). -/
def quadAt (line : Line) (addr : Nat) : Quad where
  b0 := line.getD addr 0
  b1 := line.getD (addr + 1) 0
  b2 := line.getD (addr + 2) 0
  b3 := line.getD (addr + 3) 0

/-- The line's four-byte words, in line order (R205). -/
def lineQuads (line : Line) : List Quad :=
  (List.range (line.length / 4)).map fun i => quadAt line (4 * i)

/-- How many leading bytes of an entry match the word, 0 for fewer than two (R207, R208). -/
def prefixMatch (e b : Quad) : Nat :=
  if e.b0 = b.b0 ∧ e.b1 = b.b1 then
    if e.b2 = b.b2 then (if e.b3 = b.b3 then 4 else 3) else 2
  else 0

/-- The length of the match that `Lookup` decides: of the first entry that matches two bytes, or with
`CPACK_MATCH` = best_hit of the best entry; none if no entry matches (R208). -/
def lookupMatch (m : CpackMatch) (d : Dict) (b : Quad) : Option Nat :=
  match m with
  | .firstHit => (d.map fun e => prefixMatch e b).find? fun n => decide (n ≠ 0)
  | .bestHit =>
    let best := (d.map fun e => prefixMatch e b).foldl max 0
    if best = 0 then none else some best

/-- `Insert(b)`: at the tail, evicting the oldest entry (R209). -/
def dictInsert (d : Dict) (b : Quad) : Dict := d.tail ++ [b]

/-- The dictionary after a partial hit: unchanged, unless `CPACK_INSERT_ON_PARTIAL` (92_eei_decisions.md D37). -/
def afterPartial (p : Params) (d : Dict) (b : Quad) : Dict :=
  if p.cpackInsertOnPartial then dictInsert d b else d

/-- `WordCost(b)` and the dictionary after it (R207). -/
def cpackWord (p : Params) (d : Dict) (b : Quad) : Nat × Dict :=
  if b.b0 = 0 ∧ b.b1 = 0 ∧ b.b2 = 0 then
    if b.b3 = 0 then (2, d) else (12, d)
  else
    match lookupMatch p.cpackMatch d b with
    | none => (34, dictInsert d b)
    | some n =>
      if n = 4 then (6, d)
      else if n = 3 then (16, afterPartial p d b)
      else (24, afterPartial p d b)

/-- The bits of the words, in order, and the dictionary after them (R205). -/
def cpackWords (p : Params) (d : Dict) : List Quad → Nat × Dict
  | [] => (0, d)
  | b :: rest =>
    let r := cpackWord p d b
    let r' := cpackWords p r.2 rest
    (r.1 + r'.1, r'.2)

/-- The bits of a line and the dictionary after it (R205). -/
def cpackLine (p : Params) (d : Dict) (line : Line) : Nat × Dict := cpackWords p d (lineQuads line)

/-- `CPACK.COMPRESS` (R205). -/
def execCpackCompress (byteCount : Nat) (s : State) : Host.Outcome State Fault Refusal :=
  runCommand .cpack (fun s => do
    let line ← lineOperand s.cfg .cpack s.opLine byteCount
    let r := cpackLine s.cfg s.cpackDict line
    .ok { s with cpackDict := r.2, cpackTot := s.cpackTot.add byteCount r.1, res := resOfBits r.1 }) s

/-- `CPACK.TOTU` (30_encoding.md R85). -/
def execCpackTotu (s : State) : Host.Outcome State Fault Refusal :=
  runCommand .cpack (fun s => .ok { s with res64 := s.cpackTot.unc }) s

/-- `CPACK.TOTC` (30_encoding.md R85). -/
def execCpackTotc (s : State) : Host.Outcome State Fault Refusal :=
  runCommand .cpack (fun s => .ok { s with res64 := s.cpackTot.cmp }) s

end Sys2Proof.Machine
end

