-- ==== Sys2Proof/Machine/Fpc.lean ====
section
/-! DEFINITION. The Frequent-Pattern encoder (spec/42_fpc.md): FPC.COMPRESS, FPC.TOTU, FPC.TOTC. -/

namespace Sys2Proof.Machine

/-- The low halfword of a 32-bit word. -/
def lowHalf (w : Nat) : Nat := w % 2 ^ 16

/-- The high halfword of a 32-bit word. -/
def highHalf (w : Nat) : Nat := w / 2 ^ 16 % 2 ^ 16

/-- ZP16: the low halfword is zero, or the high one with `FPC_ZP16_LOW_ZERO` = false (R174; log 16). -/
def fpcZeroPadded (p : Params) (w : Nat) : Bool :=
  if p.fpcZp16LowZero then lowHalf w == 0 else highHalf w == 0

/-- H8: each halfword is a sign-extended byte (R174). -/
def fpcTwoHalves (w : Nat) : Bool :=
  inSigned 8 (sext 16 (highHalf w)) && inSigned 8 (sext 16 (lowHalf w))

/-- REP: all four bytes are equal (R174). -/
def fpcRepeatedByte (w : Nat) : Bool :=
  w / 2 ^ 24 % 256 == w % 256 && w / 2 ^ 16 % 256 == w % 256 && w / 2 ^ 8 % 256 == w % 256

/-- `Payload(w)` of a non-zero word: the first category that holds (R172, R174). -/
def fpcPayload (p : Params) (w : Nat) : Nat :=
  if inSigned 4 (sext 32 w) then 4
  else if inSigned 8 (sext 32 w) then 8
  else if inSigned 16 (sext 32 w) then 16
  else if fpcZeroPadded p w then 16
  else if fpcTwoHalves w then 16
  else if fpcRepeatedByte w then 8
  else 32

/-- The bits of the words from here on; `inRun` says that the word before was zero (R170, R171). -/
def fpcWordsBits (p : Params) : Bool → List Nat → Nat
  | _, [] => 0
  | inRun, w :: rest =>
    if w = 0 then (if inRun then 0 else 3 + p.fpcZrunPayload) + fpcWordsBits p true rest
    else 3 + fpcPayload p w + fpcWordsBits p false rest

/-- The bits of a line (R170). -/
def fpcBits (p : Params) (line : Line) : Nat := fpcWordsBits p false (lineWords 4 line)

/-- `FPC.COMPRESS` (R170). -/
def execFpcCompress (byteCount : Nat) (s : State) : Host.Outcome State Fault Refusal :=
  runCommand .fpc (fun s => do
    let line ← lineOperand s.cfg .fpc s.opLine byteCount
    let bits := fpcBits s.cfg line
    .ok { s with fpcTot := s.fpcTot.add byteCount bits, res := resOfBits bits }) s

/-- `FPC.TOTU` (30_encoding.md R85). -/
def execFpcTotu (s : State) : Host.Outcome State Fault Refusal :=
  runCommand .fpc (fun s => .ok { s with res64 := s.fpcTot.unc }) s

/-- `FPC.TOTC` (30_encoding.md R85). -/
def execFpcTotc (s : State) : Host.Outcome State Fault Refusal :=
  runCommand .fpc (fun s => .ok { s with res64 := s.fpcTot.cmp }) s

end Sys2Proof.Machine
end

