-- ==== Sys2Proof/Machine/Mpc.lean ====
section
/-! DEFINITION. The Multi-Pattern Compressor (spec/40_mpc.md): MPC.COMPRESS, MPC.TOTU, MPC.TOTC. -/

namespace Sys2Proof.Machine

/-- The width derived from `numClusters`: its ceiled base-2 logarithm, 0 for 1 (R128). For 0 the spec states
no value (log 8). -/
def derivedWidth (numClusters : Nat) : Nat :=
  if numClusters = 0 then Config.encWidthOfNoClusters
  else if numClusters = 1 then 0
  else Nat.log2 (numClusters - 1) + 1

/-- A width of the description, or the derived one where it is omitted (R128). -/
def widthOf (c : MpcCfg) : Option Nat → Nat
  | some w => w
  | none => derivedWidth c.numClusters

/-- Prediction byte i (R116 to R119). A configuration with an unrecognised predictor never runs: reset ends in F_CONFIG
(60_exceptions.md R345, R353; log 28). -/
def predict (pr : Predictor) (sb : Line) (i : Nat) : Byte :=
  match pr with
  | .weightBase t => Config.mpcWeightPred t sb i
  | .diffBase base off =>
    match base.getD i none with
    | some j => sb.getD j 0 + BitVec.ofInt 8 (off.getD i 0)
    | none => 0
  | .oneBase root => if i = root then 0 else sb.getD root 0
  | .consecutiveBase => if i = 0 then 0 else sb.getD (i - 1) 0
  | .unrecognised => 0

/-- Residue bytes, modulo 256 (R115). -/
def residues (pr : Predictor) (sb : Line) : List Byte :=
  (List.range 32).map fun i => sb.getD i 0 - predict pr sb i

/-- `P[k][i]`: bit k of residue i (R121). -/
def planeBit (r : List Byte) (k i : Nat) : Bool := (r.getD i 0).getLsbD k

/-- `X[k][i]`: each plane below the top one XORed with the plane above it, or unchanged (R122). -/
def xorStage (consecutive : Bool) (r : List Byte) (k i : Nat) : Bool :=
  if consecutive && decide (k < 7) then Bool.xor (planeBit r k i) (planeBit r (k + 1) i)
  else planeBit r k i

/-- Is the XOR stage of the module consecutive (R122)? -/
def xorConsecutive (p : Params) (m : PredComp) : Bool :=
  m.xor == .consecutive || p.mpcForceConsecXor

/-- `Matrix(m, sb)`: the scanned rows (R115, R123). -/
def mpcMatrix (p : Params) (m : PredComp) (sb : Line) : List (List Bool) :=
  let r := residues m.pred sb
  let c := xorConsecutive p m
  m.scan.map fun row => row.map fun e => xorStage c r e.1 e.2

/-- `LeadingZeroRows(Mx)` (R124). -/
def leadingZeroRows (rows : List (List Bool)) : Nat := (rows.takeWhile allZeroBits).length

/-- `RowCost(row)` of a row with a set bit, first match (R126). -/
def rowCost (row : List Bool) : Nat :=
  if popcount row = 1 then 7
  else if popcount row = 2 ∧ hasAdjacentOnes row = true then 8
  else if allZeroBits (row.take (row.length / 2)) = true then 12
  else if allZeroBits (row.drop (row.length / 2)) = true then 12
  else 17

/-- The code of a maximal run of zero rows: none, Zero, or one ZRLE (R125). -/
def zeroRowsCost (run : Nat) : Nat := if run = 0 then 0 else if run = 1 then 4 else 7

/-- `RowBits` of the rows from here on, with `run` zero rows just before them (R125). -/
def rowBitsFrom : Nat → List (List Bool) → Nat
  | run, [] => zeroRowsCost run
  | run, row :: rest =>
    if allZeroBits row then rowBitsFrom (run + 1) rest
    else zeroRowsCost run + rowCost row + rowBitsFrom 0 rest

/-- `RowBits(Mx)` (R125). -/
def rowBits (rows : List (List Bool)) : Nat := rowBitsFrom 0 rows

/-- The matrix and the width of every general module, in index order (R112 (3)). -/
def mpcCandidates (p : Params) (sb : Line) : List (List (List Bool) × Nat) :=
  p.mpc.modules.filterMap fun m =>
    match m.kind with
    | .predComp g => some (mpcMatrix p g sb, widthOf p.mpc m.encW)
    | _ => none

/-- The candidate with the most leading zero rows, the first among equals (R112, R113, R124). -/
def mpcWinner : List (List (List Bool) × Nat) → Option (List (List Bool) × Nat)
  | [] => none
  | c :: rest =>
    match mpcWinner rest with
    | none => some c
    | some d => if leadingZeroRows c.1 < leadingZeroRows d.1 then some d else some c

/-- The width of the first module of a fast-path kind, if one is configured (R112 (1), (2)). -/
def fastPathWidth (c : MpcCfg) (k : ModuleKind) : Option Nat :=
  (c.modules.find? fun m => m.kind == k).map fun m => widthOf c m.encW

/-- Every byte of the sub-block is 0 (R112 (1)). -/
def allZeroBytes (bs : Line) : Bool := bs.all (· == 0)

/-- Every 4-byte group equals the first, byte for byte (R112 (2); 20_memory.md R64). -/
def allWordsSame (sb : Line) : Bool :=
  (List.range 8).all fun j => memRead sb (4 * j) 4 == memRead sb 0 4

/-- The general path of a sub-block: only the winner's rows are encoded, and a result that is not smaller
than 256 falls back to the index -1 width (R112 (3), R113, R127). -/
def generalCost (p : Params) (sb : Line) : Nat :=
  match mpcWinner (mpcCandidates p sb) with
  | none => 256 + widthOf p.mpc p.mpc.encWUnc
  | some (rows, w) =>
    let c := rowBits rows + w
    if 256 ≤ c then 256 + widthOf p.mpc p.mpc.encWUnc else c

/-- `SubBlockCost(sb)` (R112). -/
def subBlockCost (p : Params) (sb : Line) : Nat :=
  match fastPathWidth p.mpc .allZero, allZeroBytes sb with
  | some w, true => w
  | _, _ =>
    match fastPathWidth p.mpc .allWordSame, allWordsSame sb with
    | some w, true => 32 + w
    | _, _ => generalCost p sb

/-- The bits of a line: the sum over its 32-byte sub-blocks (R111). -/
def mpcBits (p : Params) (line : Line) : Nat :=
  ((List.range (line.length / 32)).map fun k => subBlockCost p (memRead line (32 * k) 32)).sum

/-- `MPC.COMPRESS` (R111). -/
def execMpcCompress (byteCount : Nat) (s : State) : Host.Outcome State Fault Refusal :=
  runCommand .mpc (fun s => do
    let line ← lineOperand s.cfg .mpc s.opLine byteCount
    let bits := mpcBits s.cfg line
    .ok { s with mpcTot := s.mpcTot.add byteCount bits, res := resOfBits bits }) s

/-- `MPC.TOTU` (30_encoding.md R85). -/
def execMpcTotu (s : State) : Host.Outcome State Fault Refusal :=
  runCommand .mpc (fun s => .ok { s with res64 := s.mpcTot.unc }) s

/-- `MPC.TOTC` (30_encoding.md R85). -/
def execMpcTotc (s : State) : Host.Outcome State Fault Refusal :=
  runCommand .mpc (fun s => .ok { s with res64 := s.mpcTot.cmp }) s

end Sys2Proof.Machine
end

