-- ==== Sys2Proof/Machine/Huffman.lean ====
section
/-! DEFINITION. SC2's symbol maps and the build of its code lengths (spec/45_sc2.md R222, R225 to R229). The heap
and the tree are scratch of the build (spec/10_state.md R31). -/

namespace Sys2Proof.Machine

/-- The symbols of a map strictly rise: the map's one canonical form (log 20). -/
def symsRise (m : SymMap) : Bool :=
  match m with
  | [] => true
  | e :: rest => rest.all (fun e' => decide (e.1.toNat < e'.1.toNat)) && symsRise rest

/-- `freq[s] <- freq[s] + 1`, an absent symbol counting as 0 (R220), in the canonical form. -/
def countSym (sym : Word32) : SymMap → SymMap
  | [] => [(sym, 1)]
  | e :: rest =>
    if sym.toNat < e.1.toNat then (sym, 1) :: e :: rest
    else if sym = e.1 then (e.1, e.2 + 1) :: rest
    else e :: countSym sym rest

/-- The sample after the symbols of one call (R220). -/
def countSyms (m : SymMap) (syms : List Word32) : SymMap := syms.foldl (fun m s => countSym s m) m

/-- The place of x in a list of preferences, its length if x is not on it. -/
def rankIn {α : Type} [BEq α] (prefs : List α) (x : α) : Nat := prefs.findIdx (· == x)

/-- The order of pruning: greater frequency first, among equals `SC2_PRUNE_ORDER` and then the smaller
symbol (R226; log 14). -/
def pruneBefore (prefs : List Word32) (a b : Word32 × Nat) : Bool :=
  if a.2 ≠ b.2 then decide (b.2 < a.2)
  else if rankIn prefs a.1 ≠ rankIn prefs b.1 then decide (rankIn prefs a.1 < rankIn prefs b.1)
  else decide (a.1.toNat < b.1.toNat)

/-- Insertion into a list sorted by `before`. -/
def insertBy {α : Type} (before : α → α → Bool) (x : α) : List α → List α
  | [] => [x]
  | y :: rest => if before x y then x :: y :: rest else y :: insertBy before x rest

/-- Insertion sort. -/
def sortBy {α : Type} (before : α → α → Bool) (l : List α) : List α := l.foldr (insertBy before) []

/-- `Prune(syms)`: the first 1024 in the order of pruning, back in symbol order (R226). -/
def prune (prefs : List Word32) (m : SymMap) : SymMap :=
  if sc2HeapCapacity < m.length then
    let kept := (sortBy (pruneBefore prefs) m).take sc2HeapCapacity
    m.filter fun e => kept.contains e
  else m

/-- The Huffman tree (R228). -/
inductive HuffTree where
  | leaf (sym : Word32)
  | node (left right : HuffTree)
  deriving DecidableEq, Repr

/-- A heap node with its key: frequency and serial number (R227). -/
structure HuffNode where
  f : Nat
  seq : Nat
  tree : HuffTree
  deriving DecidableEq, Repr

/-- The order of the heap: frequency, then `SC2_HEAP_ORDER`, then serial number (R227; log 14). -/
def nodeBefore (prefs : List Nat) (a b : HuffNode) : Bool :=
  if a.f ≠ b.f then decide (a.f < b.f)
  else if rankIn prefs a.seq ≠ rankIn prefs b.seq then decide (rankIn prefs a.seq < rankIn prefs b.seq)
  else decide (a.seq < b.seq)

/-- Rounds of extracting the two least nodes and inserting their parent, from a heap kept as a sorted list;
`next` is the next serial number (R228). -/
def mergeRounds (prefs : List Nat) : Nat → Nat → List HuffNode → List HuffNode
  | 0, _, heap => heap
  | rounds + 1, next, a :: b :: rest =>
    mergeRounds prefs rounds (next + 1)
      (insertBy (nodeBefore prefs) { f := a.f + b.f, seq := next, tree := .node a.tree b.tree } rest)
  | _ + 1, _, heap => heap

/-- Every leaf's depth below a node at a given depth (R228, R229). -/
def leafDepths : HuffTree → Nat → List (Word32 × Nat)
  | .leaf s, d => [(s, d)]
  | .node l r, d => leafDepths l (d + 1) ++ leafDepths r (d + 1)

/-- The leaves, in symbol order, with serial numbers from 0 (R227). -/
def leafNodes (m : SymMap) : List HuffNode :=
  m.zipIdx.map fun e => { f := e.1.2, seq := e.2, tree := .leaf e.1.1 }

/-- `HuffmanLengths(syms, freq)` (R228, R229); `SC2_MIN_CODE_LEN` is the shortest length (92_eei_decisions.md D41;
log 14). -/
def huffmanLengths (p : Params) (m : SymMap) : SymMap :=
  match mergeRounds p.sc2HeapOrder m.length m.length
      (sortBy (nodeBefore p.sc2HeapOrder) (leafNodes m)) with
  | [] => []
  | root :: _ =>
    let depths := leafDepths root.tree 0
    m.map fun e => (e.1, max p.sc2MinCodeLen ((depths.lookup e.1).getD 0))

/-- `Build()` (R225): `calls` stays, the sample is dropped, the phase is steady. -/
def sc2Build (p : Params) (c : Sc2) : Sc2 :=
  { c with
    freq := []
    codelen := huffmanLengths p (prune p.sc2PruneOrder c.freq)
    phase := .steady }

end Sys2Proof.Machine
end

