-- ==== Sys2Proof/Machine/Sc2.lean ====
section
/-! DEFINITION. The sampling adaptive-Huffman encoder (spec/45_sc2.md): SC2.COMPRESS, SC2.TOTU, SC2.TOTC. -/

namespace Sys2Proof.Machine

/-- The escape width: 32 word bits and one tag bit (R222). -/
def escapeWidth : Nat := 33

/-- The symbols of a line: its 4-byte words (R220; 20_memory.md R63). -/
def lineSymbols (line : Line) : List Word32 := (lineWords 4 line).map (BitVec.ofNat 32)

/-- The cost of a word in the steady phase (R223, R224). -/
def steadyCost (codelen : SymMap) (sym : Word32) : Nat := (codelen.lookup sym).getD escapeWidth

/-- The SC2 state after a sampled call, with the build in the call that makes `calls` = T (R220, R221). -/
def sc2Sampled (p : Params) (c : Sc2) (syms : List Word32) : Sc2 :=
  let c' : Sc2 := { c with freq := countSyms c.freq syms, calls := c.calls + 1 }
  if c'.calls = p.sc2WarmupCalls then sc2Build p c' else c'

/-- The bits of a line and the SC2 state after it (R220). -/
def sc2Line (p : Params) (c : Sc2) (line : Line) : Nat × Sc2 :=
  let syms := lineSymbols line
  match c.phase with
  | .sampling => (escapeWidth * syms.length, sc2Sampled p c syms)
  | .steady => ((syms.map (steadyCost c.codelen)).sum, c)

/-- `SC2.COMPRESS` (R220). -/
def execSc2Compress (byteCount : Nat) (s : State) : Host.Outcome State Fault Refusal :=
  runCommand .sc2 (fun s => do
    let line ← lineOperand s.cfg .sc2 s.opLine byteCount
    let r := sc2Line s.cfg s.sc2 line
    .ok { s with sc2 := r.2, sc2Tot := s.sc2Tot.add byteCount r.1, res := resOfBits r.1 }) s

/-- `SC2.TOTU` (30_encoding.md R85). -/
def execSc2Totu (s : State) : Host.Outcome State Fault Refusal :=
  runCommand .sc2 (fun s => .ok { s with res64 := s.sc2Tot.unc }) s

/-- `SC2.TOTC` (30_encoding.md R85). -/
def execSc2Totc (s : State) : Host.Outcome State Fault Refusal :=
  runCommand .sc2 (fun s => .ok { s with res64 := s.sc2Tot.cmp }) s

end Sys2Proof.Machine
end

