-- ==== Sys2Proof/Machine/Eng.lean ====
section
/-! DEFINITION. The shared compression engine (spec/10_state.md R47; spec/48_compressed_link.md R295): ENG.COMPRESS,
ENG.TOTU, ENG.TOTC, and the compression that a link asks for. -/

namespace Sys2Proof.Machine

/-- The bits of a line under the encoder that `ALG` names, and the engine's state after it but for the totals
(30_encoding.md R83, row ENG). -/
def engineLine (p : Params) (a : Alg) (e : Engine) (line : Line) : Nat × Engine :=
  match a with
  | .mpc => (mpcBits p line, e)
  | .bdi => (bdiBits p line, { e with bdiState := (bdiSelect p line).1 })
  | .fpc => (fpcBits p line, e)
  | .bpc => (bpcBits p line, e)
  | .cpack => ((cpackLine p e.dict line).1, { e with dict := (cpackLine p e.dict line).2 })
  | .sc2 => ((sc2Line p e.sc2 line).1, { e with sc2 := (sc2Line p e.sc2 line).2 })

/-- `COMPRESS` on the engine: bits and the engine after it, or F_BADLEN (00_scope.md R15). An `ALG` that names
no encoder never runs: reset ends in F_CONFIG (60_exceptions.md R353; log 11). -/
def engineCompress (p : Params) (e : Engine) (supplied : Line) (byteCount : Nat) :
    Except FaultCode (Nat × Engine) :=
  match p.alg with
  | none => .error .config
  | some a => do
    let line ← lineOperand p a supplied byteCount
    let r := engineLine p a e line
    .ok (r.1, { r.2 with tot := e.tot.add byteCount r.1 })

/-- `Compress(t)` of a link: the engine on the payload; a length other than 32 or 128 is F_BADLEN inside the step
(48_compressed_link.md R295; log 22). -/
def compressTxn (p : Params) (e : Engine) (t : Txn) : Except FaultCode (Nat × Engine) :=
  if t.len = 32 ∨ t.len = 128 then engineCompress p e t.payload t.len else .error .badLen

/-- `ENG.COMPRESS` (30_encoding.md R83). -/
def execEngCompress (byteCount : Nat) (s : State) : Host.Outcome State Fault Refusal :=
  runCommand .eng (fun s => do
    let r ← engineCompress s.cfg s.engine s.opLine byteCount
    .ok { s with engine := r.2, res := resOfBits r.1 }) s

/-- `ENG.TOTU` (30_encoding.md R85). -/
def execEngTotu (s : State) : Host.Outcome State Fault Refusal :=
  runCommand .eng (fun s => .ok { s with res64 := s.engine.tot.unc }) s

/-- `ENG.TOTC` (30_encoding.md R85). -/
def execEngTotc (s : State) : Host.Outcome State Fault Refusal :=
  runCommand .eng (fun s => .ok { s with res64 := s.engine.tot.cmp }) s

end Sys2Proof.Machine
end

