-- ==== Sys2Proof/Machine/LinkOps.lean ====
section
/-! DEFINITION. What every verb of a Oneway Link does to the link, plain (spec/47_oneway_link.md) and compressed
(spec/48_compressed_link.md). The verbs of LNK, MLDN and MLUP are these on one of the three links. -/

namespace Sys2Proof.Machine

/-- A source index must be below S (30_encoding.md R84, R87). -/
def sourceIndex (lp : LinkParams) (src : Nat) : Except FaultCode Unit :=
  if src < lp.sources then .ok () else .error .badCmd

/-- A destination index must be below DST (30_encoding.md R84, R87). -/
def destIndex (lp : LinkParams) (dst : Nat) : Except FaultCode Unit :=
  if dst < lp.dests then .ok () else .error .badCmd

/-- The ready queues that a transaction would enter (47 R266; 48 R291: by type alone on a compressed link). -/
def readyOf (lp : LinkParams) (l : Link) (t : Txn) : List (List Txn) :=
  match lp.kind with
  | .plain => l.ready
  | .compressed => if t.long then l.readyLong else l.readyShort

/-- The link with a transaction appended to its ready queue (47 R266; 48 R291). -/
def enqReady (lp : LinkParams) (l : Link) (src : Nat) (t : Txn) : Link :=
  match lp.kind with
  | .plain => { l with ready := enqAt l.ready src t }
  | .compressed =>
    if t.long then { l with readyLong := enqAt l.readyLong src t }
    else { l with readyShort := enqAt l.readyShort src t }

/-- `PUSH(src, txn)`: type, destination, room, in that order of test (47 R266; 48 R291). With `BADTYPE_AT` =
schedule the type is not tested here (92_eei_decisions.md D67; log 12). -/
def linkPush (lp : LinkParams) (l : Link) (src : Nat) (t : Txn) : Except FaultCode Link :=
  if src < lp.sources then
    if t.badType = true ∧ lp.badTypeAt = .push then .error .badType
    else if lp.dests ≤ t.dst then .error .badDst
    else if (queueAt (readyOf lp l t) src).length = lp.readyDepth then .error .readyFull
    else .ok (enqReady lp l src t)
  else .error .badCmd

/-- `FULL(src)`: of the one ready queue, or of either on a compressed link (47 R267; 48 R292). -/
def linkFull (lp : LinkParams) (l : Link) (src : Nat) : Bool :=
  match lp.kind with
  | .plain => (queueAt l.ready src).length == lp.readyDepth
  | .compressed =>
    (queueAt l.readyLong src).length == lp.readyDepth || (queueAt l.readyShort src).length == lp.readyDepth

/-- `EMPTY(dst)` (47 R276). -/
def linkEmpty (l : Link) (dst : Nat) : Bool := (queueAt l.done dst).isEmpty

/-- `TOP(dst)` (47 R277). -/
def linkTop (l : Link) (dst : Nat) : Option Txn := (queueAt l.done dst).head?

/-- `POP(dst)` (47 R278). -/
def linkPop (l : Link) (dst : Nat) : Link := { l with done := deqAt l.done dst }

/-- Does the completed queue of a destination hold `DONE_DEPTH` (47 R270)? -/
def doneFull (lp : LinkParams) (l : Link) (dst : Nat) : Bool :=
  match lp.doneDepth with
  | none => false
  | some d => (queueAt l.done dst).length == d

/-- One pop of the pop phase and the delivery of the transaction it returns (47 R270, R271). -/
def popOnce (lp : LinkParams) (l : Link) : Except FaultCode Link :=
  match dqHead l.dq with
  | none => .ok { l with dq := dqAfterPop lp.dq l.dq }
  | some t =>
    if doneFull lp l t.dst then .error .doneOverflow
    else .ok { l with dq := dqAfterPop lp.dq l.dq, done := enqAt l.done t.dst t }

/-- The pop phase: exactly n pops (47 R271). -/
def popPhase (lp : LinkParams) : Nat → Link → Except FaultCode Link
  | 0, l => .ok l
  | n + 1, l => do
    let l ← popOnce lp l
    popPhase lp n l

/-- Sources in the order of the round-robin search from a cursor (47 R273). -/
def searchOrder (sources start : Nat) : List Nat :=
  (List.range sources).map fun k => (start + k) % sources

/-- `NextSource()` over an array of ready queues (47 R273; 48 R304). -/
def nextSource (lp : LinkParams) (rr : Nat) (qs : List (List Txn)) : Option Nat :=
  (searchOrder lp.sources (rr + lp.rrStartOffset)).find? fun s => !(queueAt qs s).isEmpty

/-- `ceil(a / b)` (00_scope.md R11). -/
def ceilDiv (a b : Nat) : Nat := (a + b - 1) / b

/-- `PacketBits(t)` on a plain link (47 R268). -/
def packetBits (lp : LinkParams) (t : Txn) : Nat :=
  if t.long then lp.headBits + 8 * t.len else lp.headBits

/-- `PacketFlits(t)` (47 R269). -/
def packetFlits (lp : LinkParams) (t : Txn) : Nat := ceilDiv (packetBits lp t) lp.flitBits

/-- The scheduler's own type check, made only with `BADTYPE_AT` = schedule (92_eei_decisions.md D67; log 12). -/
def scheduleCheck (lp : LinkParams) (t : Txn) : Except FaultCode Unit :=
  if t.badType = true ∧ lp.badTypeAt = .schedule then .error .badType else .ok ()

/-- The plain link's choice when no packet is in progress: the next source's transaction becomes the packet,
or none is taken (47 R270, R273). -/
def selectPlain (lp : LinkParams) (l : Link) : Except FaultCode Link :=
  match nextSource lp l.rr l.ready with
  | none => .ok l
  | some s =>
    match queueAt l.ready s with
    | [] => .ok l
    | t :: _ => do
      scheduleCheck lp t
      .ok { l with
        ready := deqAt l.ready s
        rr := s
        cur := some { txn := t, left := packetFlits lp t, first := true } }

/-- Bits that a packet of `need` bits need not pay, because they ride in the pad of the one before: at least one
bit is always charged (48 R300, R301). -/
def leftoverUse (lp : LinkParams) (need pad : Nat) : Nat :=
  if lp.leftoverEnable then min pad (need - 1) else 0

/-- The flit count of a packet of `need` bits given the pad of the one before (48 R300, R301). -/
def paddedFlits (lp : LinkParams) (need pad : Nat) : Nat :=
  ceilDiv (need - leftoverUse lp need pad) lp.flitBits

/-- The packet's own pad (48 R300, R301). -/
def paddedRest (lp : LinkParams) (need pad : Nat) : Nat :=
  paddedFlits lp need pad * lp.flitBits - (need - leftoverUse lp need pad)

/-- `StartLong(t, size)` (48 R300, R296). -/
def startLong (lp : LinkParams) (l : Link) (t : Txn) (size : Nat) : Link :=
  let need := lp.headBits + size
  { l with
    leftover := paddedRest lp need l.leftover
    cur := some { txn := t, left := paddedFlits lp need l.leftover, first := true } }

/-- `StartShort(t)` (48 R301). -/
def startShort (lp : LinkParams) (l : Link) (t : Txn) : Link :=
  { l with
    leftoverNodata := paddedRest lp lp.headBits l.leftoverNodata
    cur := some { txn := t, left := paddedFlits lp lp.headBits l.leftoverNodata, first := true } }

/-- Serve the next short transaction, if there is one: the link after it, or none (48 R302, R303, R304). -/
def serveShort (lp : LinkParams) (l : Link) : Except FaultCode (Option Link) :=
  match nextSource lp l.rr l.readyShort with
  | none => .ok none
  | some s =>
    match queueAt l.readyShort s with
    | [] => .ok none
    | t :: _ => do
      scheduleCheck lp t
      .ok (some (startShort lp { l with readyShort := deqAt l.readyShort s, rr := s } t))

/-- Serve the visible head of the compressed queue, if there is one (48 R302, R303). -/
def serveLong (lp : LinkParams) (l : Link) : Option Link :=
  match cdqTop lp.cdq l.cdq l.cycle with
  | none => none
  | some c =>
    match c.txn with
    | none => none
    | some t => some (startLong lp { l with cdq := cdqAfterPop lp.cdq l.cdq } t c.size.toNat)

/-- `SelectDown()`: a short when no leftover is pending, else a visible long, else nothing; with
`DN_SHORT_FALLBACK` a short after all (48 R302). -/
def selectDown (lp : LinkParams) (l : Link) : Except FaultCode Link := do
  let short ← (if l.leftover = 0 then serveShort lp l else .ok none)
  match short with
  | some l' => .ok l'
  | none =>
    match serveLong lp l with
    | some l' => .ok l'
    | none =>
      if l.leftover ≠ 0 ∧ lp.dnShortFallback = true then do
        let again ← serveShort lp l
        .ok (again.getD l)
      else .ok l

/-- `SelectUp()`: a visible long, else a short, else nothing (48 R303). -/
def selectUp (lp : LinkParams) (l : Link) : Except FaultCode Link :=
  match serveLong lp l with
  | some l' => .ok l'
  | none => do
    let short ← serveShort lp l
    .ok (short.getD l)

/-- The choice of the next packet when none is in progress, by the link's kind and direction (47 R270; 48 R297). -/
def selectNext (lp : LinkParams) (l : Link) : Except FaultCode Link :=
  match lp.kind with
  | .plain => selectPlain lp l
  | .compressed =>
    match lp.dir with
    | .down => selectDown lp l
    | .up => selectUp lp l

/-- Push n empty flits, the slack of a push phase (47 R275). -/
def pushSlack (lp : LinkParams) : Nat → Link → Link
  | 0, l => l
  | n + 1, l => pushSlack lp n { l with dq := dqPush lp.dq l.dq Slot.empty }

/-- Push the next flit of the packet in progress (47 R270, R274). -/
def emitFlit (lp : LinkParams) (l : Link) (c : Packet) : Link :=
  { l with dq := dqPush lp.dq l.dq c.flit, cur := c.rest }

/-- The link with a packet in progress if one is to be had (47 R270; 48 R297). -/
def withPacket (lp : LinkParams) (l : Link) : Except FaultCode Link :=
  match l.cur with
  | some _ => .ok l
  | none => selectNext lp l

/-- The push phase: exactly `budget` pushes, flits first and then slack (47 R272; 48 R297). -/
def pushPhase (lp : LinkParams) : Nat → Link → Except FaultCode Link
  | 0, l => .ok l
  | budget + 1, l => do
    let l ← withPacket lp l
    match l.cur with
    | none => .ok (pushSlack lp (budget + 1) l)
    | some c => pushPhase lp budget (emitFlit lp l c)

/-- The size that the link stores for a result of the engine: as returned, or clamped with `LINK_CLAMP_RAW`
(48 R295; 92_eei_decisions.md D69). -/
def linkSize (lp : LinkParams) (t : Txn) (bits : Nat) : Word32 :=
  BitVec.ofNat 32 (if lp.clampRaw then min bits (8 * t.len) else bits)

/-- What the compression pass carries from source to source: the link, the engine, the last source served. -/
structure PassState where
  link : Link
  engine : Engine
  last : Option Nat
  deriving DecidableEq, Repr

/-- One transaction of one source in the compression pass, if the source has one and the compressed queue has
room (48 R305). -/
def compressOne (p : Params) (lp : LinkParams) (s : Nat) (x : PassState) : Except FaultCode PassState :=
  match queueAt x.link.readyLong s with
  | [] => .ok x
  | t :: _ =>
    if x.link.cdq.count < lp.cdq.cap then do
      let r ← compressTxn p x.engine t
      let q ← cdqPush lp.cdq x.link.cdq t (linkSize lp t r.1) x.link.cycle
      .ok
        { link := { x.link with readyLong := deqAt x.link.readyLong s, cdq := q }
          engine := r.2
          last := some s }
    else .ok x

/-- A source's turn in the compression pass: `COMP_PER_SRC_PER_STEP` transactions at most (48 R305; log 13). -/
def compressSource (p : Params) (lp : LinkParams) (s : Nat) : Nat → PassState → Except FaultCode PassState
  | 0, x => .ok x
  | n + 1, x => do
    let x ← compressOne p lp s x
    compressSource p lp s n x

/-- The sweep of the compression pass over sources in order (48 R305). -/
def compressSweep (p : Params) (lp : LinkParams) : List Nat → PassState → Except FaultCode PassState
  | [], x => .ok x
  | s :: rest, x => do
    let x ← compressSource p lp s lp.compPerSrcPerStep x
    compressSweep p lp rest x

/-- The compression pass: one sweep from `crr`, which then moves past the last source served (48 R305). -/
def compressionPass (p : Params) (lp : LinkParams) (l : Link) (e : Engine) : Except FaultCode (Link × Engine) := do
  let x ← compressSweep p lp (searchOrder lp.sources l.crr) { link := l, engine := e, last := none }
  match x.last with
  | none => .ok (x.link, x.engine)
  | some s => .ok ({ x.link with crr := (s + 1) % lp.sources }, x.engine)

/-- The end-of-step discard: with no packet in progress both leftover counters are cleared (48 R306). -/
def discardLeftover (l : Link) : Link :=
  match l.cur with
  | none => { l with leftover := 0, leftoverNodata := 0 }
  | some _ => l

/-- `cycle <- cycle + 1` (48 R307). -/
def tick (l : Link) : Link := { l with cycle := l.cycle + 1 }

/-- `STEP(n)` of a plain link (47 R270). -/
def stepPlain (lp : LinkParams) (l : Link) (n : Nat) : Except FaultCode Link := do
  let l ← popPhase lp n l
  pushPhase lp n l

/-- `STEP(n)` of a compressed link: pop phase, push phase, compression pass, discard, cycle (48 R297); with
`COMP_PASS_FIRST` the pass stands before the push phase (92_eei_decisions.md D53; log 13). -/
def stepCompressed (p : Params) (lp : LinkParams) (l : Link) (e : Engine) (n : Nat) :
    Except FaultCode (Link × Engine) := do
  let l ← popPhase lp n l
  if lp.compPassFirst then do
    let (l, e) ← compressionPass p lp l e
    let l ← pushPhase lp n l
    .ok (tick (discardLeftover l), e)
  else do
    let l ← pushPhase lp n l
    let (l, e) ← compressionPass p lp l e
    .ok (tick (discardLeftover l), e)

/-- `STEP(n)` of a link, by its kind (47 R270; 48 R297). -/
def linkStep (p : Params) (lp : LinkParams) (l : Link) (e : Engine) (n : Nat) :
    Except FaultCode (Link × Engine) :=
  match lp.kind with
  | .plain => do
    let l ← stepPlain lp l n
    .ok (l, e)
  | .compressed => stepCompressed p lp l e n

end Sys2Proof.Machine
end

