-- ==== Sys2Proof/Machine/Lnk.lean ====
section
/-! DEFINITION. The verbs of the standalone link (spec/47_oneway_link.md, spec/48_compressed_link.md): LNK.PUSH, LNK.FULL, LNK.STEP, LNK.EMPTY, LNK.TOP,
LNK.POP. "47" and "48" are the files 47_oneway_link.md and 48_compressed_link.md. -/

namespace Sys2Proof.Machine

/-- `LNK.PUSH` (47 R266; 48 R291). -/
def execLnkPush (src : Nat) (s : State) : Host.Outcome State Fault Refusal :=
  runCommand .lnk (fun s => do
    let l ← linkPush s.cfg.lnk s.lnk src s.opTxn
    .ok { s with lnk := l }) s

/-- `LNK.FULL` (47 R267; 48 R292). -/
def execLnkFull (src : Nat) (s : State) : Host.Outcome State Fault Refusal :=
  runCommand .lnk (fun s => do
    sourceIndex s.cfg.lnk src
    .ok { s with res := resOfBool (linkFull s.cfg.lnk s.lnk src) }) s

/-- `LNK.STEP` with `arg` = nFlits (47 R270; 48 R297). -/
def execLnkStep (nFlits : Nat) (s : State) : Host.Outcome State Fault Refusal :=
  runCommand .lnk (fun s => do
    let r ← linkStep s.cfg s.cfg.lnk s.lnk s.engine nFlits
    .ok { s with lnk := r.1, engine := r.2 }) s

/-- `LNK.EMPTY` (47 R276). -/
def execLnkEmpty (dst : Nat) (s : State) : Host.Outcome State Fault Refusal :=
  runCommand .lnk (fun s => do
    destIndex s.cfg.lnk dst
    .ok { s with res := resOfBool (linkEmpty s.lnk dst) }) s

/-- `LNK.TOP` (47 R277). -/
def execLnkTop (dst : Nat) (s : State) : Host.Outcome State Fault Refusal :=
  runCommand .lnk (fun s => do
    destIndex s.cfg.lnk dst
    .ok { s with resTxn := linkTop s.lnk dst, resValid := (linkTop s.lnk dst).isSome }) s

/-- `LNK.POP` (47 R278). -/
def execLnkPop (dst : Nat) (s : State) : Host.Outcome State Fault Refusal :=
  runCommand .lnk (fun s => do
    destIndex s.cfg.lnk dst
    .ok { s with lnk := linkPop s.lnk dst }) s

end Sys2Proof.Machine
end

