-- ==== Sys2Proof/Machine/Mldn.lean ====
section
/-! DEFINITION. The verbs of the down link (spec/49_memory_link.md R331 to R333): MLDN.PUSH, MLDN.FULL, MLDN.STEP, MLDN.EMPTY, MLDN.TOP,
MLDN.POP. "47" and "48" are the files 47_oneway_link.md and 48_compressed_link.md. -/

namespace Sys2Proof.Machine

/-- `MLDN.PUSH` (47 R266; 48 R291). -/
def execMldnPush (src : Nat) (s : State) : Host.Outcome State Fault Refusal :=
  runCommand .mldn (fun s => do
    let l ← linkPush s.cfg.dnLink s.dn src s.opTxn
    .ok { s with dn := l }) s

/-- `MLDN.FULL` (47 R267; 48 R292). -/
def execMldnFull (src : Nat) (s : State) : Host.Outcome State Fault Refusal :=
  runCommand .mldn (fun s => do
    sourceIndex s.cfg.dnLink src
    .ok { s with res := resOfBool (linkFull s.cfg.dnLink s.dn src) }) s

/-- `MLDN.STEP` with `OP_BW`: the budget is the floor of bandwidth plus remainder, the rest is carried; a step that
faults leaves the remainder (49_memory_link.md R332). -/
def execMldnStep (s : State) : Host.Outcome State Fault Refusal :=
  runCommand .mldn (fun s => do
    let r ← linkStep s.cfg s.cfg.dnLink s.dn s.engine (bwBudget s.cfg s.opBw s.remDn)
    .ok { s with dn := r.1, engine := r.2, remDn := bwRemainder s.cfg s.opBw s.remDn }) s

/-- `MLDN.EMPTY` (47 R276). -/
def execMldnEmpty (dst : Nat) (s : State) : Host.Outcome State Fault Refusal :=
  runCommand .mldn (fun s => do
    destIndex s.cfg.dnLink dst
    .ok { s with res := resOfBool (linkEmpty s.dn dst) }) s

/-- `MLDN.TOP` (47 R277). -/
def execMldnTop (dst : Nat) (s : State) : Host.Outcome State Fault Refusal :=
  runCommand .mldn (fun s => do
    destIndex s.cfg.dnLink dst
    .ok { s with resTxn := linkTop s.dn dst, resValid := (linkTop s.dn dst).isSome }) s

/-- `MLDN.POP` (47 R278). -/
def execMldnPop (dst : Nat) (s : State) : Host.Outcome State Fault Refusal :=
  runCommand .mldn (fun s => do
    destIndex s.cfg.dnLink dst
    .ok { s with dn := linkPop s.dn dst }) s

end Sys2Proof.Machine
end

