-- ==== Sys2Proof/Machine/Mlup.lean ====
section
/-! DEFINITION. The verbs of the up link (spec/49_memory_link.md R331 to R333): MLUP.PUSH, MLUP.FULL, MLUP.STEP, MLUP.EMPTY, MLUP.TOP,
MLUP.POP. "47" and "48" are the files 47_oneway_link.md and 48_compressed_link.md. -/

namespace Sys2Proof.Machine

/-- `MLUP.PUSH` (47 R266; 48 R291). -/
def execMlupPush (src : Nat) (s : State) : Host.Outcome State Fault Refusal :=
  runCommand .mlup (fun s => do
    let l ← linkPush s.cfg.upLink s.up src s.opTxn
    .ok { s with up := l }) s

/-- `MLUP.FULL` (47 R267; 48 R292). -/
def execMlupFull (src : Nat) (s : State) : Host.Outcome State Fault Refusal :=
  runCommand .mlup (fun s => do
    sourceIndex s.cfg.upLink src
    .ok { s with res := resOfBool (linkFull s.cfg.upLink s.up src) }) s

/-- `MLUP.STEP` with `OP_BW`: the budget is the floor of bandwidth plus remainder, the rest is carried; a step that
faults leaves the remainder (49_memory_link.md R333). -/
def execMlupStep (s : State) : Host.Outcome State Fault Refusal :=
  runCommand .mlup (fun s => do
    let r ← linkStep s.cfg s.cfg.upLink s.up s.engine (bwBudget s.cfg s.opBw s.remUp)
    .ok { s with up := r.1, engine := r.2, remUp := bwRemainder s.cfg s.opBw s.remUp }) s

/-- `MLUP.EMPTY` (47 R276). -/
def execMlupEmpty (dst : Nat) (s : State) : Host.Outcome State Fault Refusal :=
  runCommand .mlup (fun s => do
    destIndex s.cfg.upLink dst
    .ok { s with res := resOfBool (linkEmpty s.up dst) }) s

/-- `MLUP.TOP` (47 R277). -/
def execMlupTop (dst : Nat) (s : State) : Host.Outcome State Fault Refusal :=
  runCommand .mlup (fun s => do
    destIndex s.cfg.upLink dst
    .ok { s with resTxn := linkTop s.up dst, resValid := (linkTop s.up dst).isSome }) s

/-- `MLUP.POP` (47 R278). -/
def execMlupPop (dst : Nat) (s : State) : Host.Outcome State Fault Refusal :=
  runCommand .mlup (fun s => do
    destIndex s.cfg.upLink dst
    .ok { s with up := linkPop s.up dst }) s

end Sys2Proof.Machine
end

