-- ==== Sys2Proof/Machine/Queues.lean ====
section
/-! DEFINITION. The standalone Delay Queue and Compressed Delay Queue (spec/46_delay_queues.md): DQ.PUSH, DQ.POP,
CDQ.PUSH, CDQ.TOP, CDQ.POP, CDQ.FULL. -/

namespace Sys2Proof.Machine

/-- The flit that DQ.PUSH writes: OP_TXN, or empty when `arg[2]` is 0, with the two flags (R241). -/
def pushedFlit (head tail hasTxn : Bool) (t : Txn) : Slot :=
  { txn := if hasTxn then some t else none, head := head, tail := tail }

/-- `DQ.PUSH` (R241). -/
def execDqPush (head tail hasTxn : Bool) (s : State) : Host.Outcome State Fault Refusal :=
  runCommand .dq (fun s =>
    .ok { s with dq := dqPush s.cfg.dq s.dq (pushedFlit head tail hasTxn s.opTxn) }) s

/-- `DQ.POP` (R242). -/
def execDqPop (s : State) : Host.Outcome State Fault Refusal :=
  runCommand .dq (fun s =>
    .ok { s with
      dq := dqAfterPop s.cfg.dq s.dq
      resTxn := dqHead s.dq
      resValid := (dqHead s.dq).isSome }) s

/-- `CDQ.PUSH` (R252). -/
def execCdqPush (size : Nat) (s : State) : Host.Outcome State Fault Refusal :=
  runCommand .cdq (fun s => do
    let q ← cdqPush s.cfg.cdq s.cdq s.opTxn (BitVec.ofNat 32 size) s.opNow
    .ok { s with cdq := q }) s

/-- `CDQ.TOP` (R254). -/
def execCdqTop (s : State) : Host.Outcome State Fault Refusal :=
  runCommand .cdq (fun s =>
    match cdqTop s.cfg.cdq s.cdq s.opNow with
    | some c => .ok { s with resTxn := c.txn, resValid := true, res := c.size }
    | none => .ok { s with resTxn := none, resValid := false, res := 0 }) s

/-- `CDQ.POP` (R255). -/
def execCdqPop (s : State) : Host.Outcome State Fault Refusal :=
  runCommand .cdq (fun s => .ok { s with cdq := cdqAfterPop s.cfg.cdq s.cdq }) s

/-- `CDQ.FULL` (R253). -/
def execCdqFull (s : State) : Host.Outcome State Fault Refusal :=
  runCommand .cdq (fun s => .ok { s with res := resOfBool (cdqFull s.cfg.cdq s.cdq) }) s

end Sys2Proof.Machine
end

