-- ==== Sys2Proof/Machine/Sys.lean ====
section
/-! DEFINITION. The system verbs (spec/60_exceptions.md R366): SYS.RESET (spec/70_reset_and_hazards.md R380) and
SYS.RDFAULT (spec/60_exceptions.md R351). Neither is ever refused (R350). -/

namespace Sys2Proof.Machine

/-- `SYS.RESET`: accepted whatever FAULT holds (70_reset_and_hazards.md R380). -/
def execSysReset (s : State) : Host.Outcome State Fault Refusal := .next s.reinit

/-- `SYS.RDFAULT`: RES is FAULT, never refused (60_exceptions.md R351). -/
def execSysRdfault (s : State) : Host.Outcome State Fault Refusal :=
  .next { s with res := s.fault.setWidth 32 }

end Sys2Proof.Machine
end

