-- ==== Sys2Proof/Machine/Dispatch.lean ====
section
/-! DEFINITION. One arm per command of spec/opcode_table.json, each a direct call of its meaning. -/

namespace Sys2Proof.Machine

def exec (i : Instr) (s : State) : Host.Outcome State Fault Refusal :=
  match i with
  | .sysReset => Sys2Proof.Machine.execSysReset s
  | .sysRdfault => Sys2Proof.Machine.execSysRdfault s
  | .mpcCompress byteCount => Sys2Proof.Machine.execMpcCompress byteCount s
  | .mpcTotu => Sys2Proof.Machine.execMpcTotu s
  | .mpcTotc => Sys2Proof.Machine.execMpcTotc s
  | .bdiCompress byteCount => Sys2Proof.Machine.execBdiCompress byteCount s
  | .bdiTotu => Sys2Proof.Machine.execBdiTotu s
  | .bdiTotc => Sys2Proof.Machine.execBdiTotc s
  | .bdiRdstate => Sys2Proof.Machine.execBdiRdstate s
  | .fpcCompress byteCount => Sys2Proof.Machine.execFpcCompress byteCount s
  | .fpcTotu => Sys2Proof.Machine.execFpcTotu s
  | .fpcTotc => Sys2Proof.Machine.execFpcTotc s
  | .bpcCompress byteCount => Sys2Proof.Machine.execBpcCompress byteCount s
  | .bpcTotu => Sys2Proof.Machine.execBpcTotu s
  | .bpcTotc => Sys2Proof.Machine.execBpcTotc s
  | .cpackCompress byteCount => Sys2Proof.Machine.execCpackCompress byteCount s
  | .cpackTotu => Sys2Proof.Machine.execCpackTotu s
  | .cpackTotc => Sys2Proof.Machine.execCpackTotc s
  | .sc2Compress byteCount => Sys2Proof.Machine.execSc2Compress byteCount s
  | .sc2Totu => Sys2Proof.Machine.execSc2Totu s
  | .sc2Totc => Sys2Proof.Machine.execSc2Totc s
  | .engCompress byteCount => Sys2Proof.Machine.execEngCompress byteCount s
  | .engTotu => Sys2Proof.Machine.execEngTotu s
  | .engTotc => Sys2Proof.Machine.execEngTotc s
  | .dqPush head tail hasTxn => Sys2Proof.Machine.execDqPush head tail hasTxn s
  | .dqPop => Sys2Proof.Machine.execDqPop s
  | .cdqPush size => Sys2Proof.Machine.execCdqPush size s
  | .cdqTop => Sys2Proof.Machine.execCdqTop s
  | .cdqPop => Sys2Proof.Machine.execCdqPop s
  | .cdqFull => Sys2Proof.Machine.execCdqFull s
  | .lnkPush src => Sys2Proof.Machine.execLnkPush src s
  | .lnkFull src => Sys2Proof.Machine.execLnkFull src s
  | .lnkStep nFlits => Sys2Proof.Machine.execLnkStep nFlits s
  | .lnkEmpty dst => Sys2Proof.Machine.execLnkEmpty dst s
  | .lnkTop dst => Sys2Proof.Machine.execLnkTop dst s
  | .lnkPop dst => Sys2Proof.Machine.execLnkPop dst s
  | .mldnPush src => Sys2Proof.Machine.execMldnPush src s
  | .mldnFull src => Sys2Proof.Machine.execMldnFull src s
  | .mldnStep => Sys2Proof.Machine.execMldnStep s
  | .mldnEmpty dst => Sys2Proof.Machine.execMldnEmpty dst s
  | .mldnTop dst => Sys2Proof.Machine.execMldnTop dst s
  | .mldnPop dst => Sys2Proof.Machine.execMldnPop dst s
  | .mlupPush src => Sys2Proof.Machine.execMlupPush src s
  | .mlupFull src => Sys2Proof.Machine.execMlupFull src s
  | .mlupStep => Sys2Proof.Machine.execMlupStep s
  | .mlupEmpty dst => Sys2Proof.Machine.execMlupEmpty dst s
  | .mlupTop dst => Sys2Proof.Machine.execMlupTop dst s
  | .mlupPop dst => Sys2Proof.Machine.execMlupPop dst s

end Sys2Proof.Machine
end

