-- ==== Sys2Proof/Machine/Port.lean ====
section
/-! DEFINITION. The command port: how the host's next event reaches the block, which stands where a fetch would
(spec/10_state.md R21, R22; log 3). -/

namespace Sys2Proof.Machine

/-- The port with a command presented: the command word and the operand latches written with it (10_state.md R22; a
line longer than its latch is cut, log 35). -/
def State.present (s : State) (c : Command) : State :=
  { s with
    cmd := c.word
    opTxn := c.txn.getD s.opTxn
    opLine := (c.line.map lineLatch).getD s.opLine
    opBw := c.bw.getD s.opBw
    opNow := c.now.getD s.opNow }

/-- The command on the port, run to its end: decoded (30_encoding.md R86) and executed, or illegal (R87). -/
def runPort (s : State) : Host.Outcome State Fault Refusal :=
  match decode s.cmd with
  | .ok i => exec i s
  | .error _ => illegalCommand s

/-- One event of the host: a command, or a pull of the reset pin (70_reset_and_hazards.md R380). -/
def runEvent (s : State) : HostEvent → Host.Outcome State Fault Refusal
  | .command c => runPort (s.present c)
  | .resetPin => .next s.reinit

/-- The host's next event, taken from the list and run; with none the block waits and nothing changes
(70_reset_and_hazards.md R381; 00_scope.md R14). -/
def nextEvent (s : State) : Host.Outcome State Fault Refusal :=
  match s.inbox with
  | [] => .next s
  | e :: rest => runEvent { s with inbox := rest } e

/-- The state in which the host's next event is the command of a word, with the latches as they are. -/
def offerWord (s : State) (w : Word32) : State :=
  { s with inbox := .command { word := w } :: s.inbox }

end Sys2Proof.Machine
end

