-- ==== Sys2Proof/Machine/Step.lean ====
section
/-! DEFINITION. One step of the machine: the host's next event (spec/00_scope.md R14, R19; log 3). -/

namespace Sys2Proof.Machine

/-- One step: the next command (or reset pull) of the host, whole; nothing when there is none. -/
def step (s : State) : Host.Outcome State Fault Refusal := nextEvent s

/-- The state whose next step runs the command of the table's bits: the host's next event is that word (log 3). -/
def State.withFetchWord (s : State) (nbits w : Nat) : State := offerWord s (tableWord nbits w)

end Sys2Proof.Machine
end

