-- ==== Sys2Proof/Safety.lean ====
section
/-! DEFINITION. What a well-formed state is, part by part: the ranges and shapes that spec/10_state.md gives each
piece of state and that every command keeps (spec/46_delay_queues.md R245, spec/48_compressed_link.md R309). -/

namespace Sys2Proof.Machine

/-- A transaction that a link may hold: its destination exists, and its type is recognised where the type is
tested at PUSH (47_oneway_link.md R266; 48_compressed_link.md R291). -/
def servable (lp : LinkParams) (t : Txn) : Bool :=
  decide (t.dst < lp.dests) && (lp.badTypeAt == .schedule || !t.badType)

/-- An array of n ready queues within the depth, of servable transactions (10_state.md R39, R42). -/
abbrev readyOk (lp : LinkParams) (qs : List (List Txn)) : Prop :=
  qs.length = lp.sources ∧ ∀ q ∈ qs, q.length ≤ lp.readyDepth ∧ q.all (servable lp) = true

/-- Completed queues: one per destination, within the depth, each transaction in its own destination's queue
(10_state.md R39; 47_oneway_link.md R270). -/
abbrev doneOk (lp : LinkParams) (qs : List (List Txn)) : Prop :=
  qs.length = lp.dests ∧
    ∀ d < lp.dests, (queueAt qs d).all (fun t => t.dst == d) = true ∧
      (lp.doneDepth.all fun n => decide ((queueAt qs d).length ≤ n)) = true

/-- A Delay Queue's ring and pointers are in range (10_state.md R35; 20_memory.md R70). -/
abbrev dqOk (p : DqParams) (q : Dq) : Prop :=
  q.slots.length = p.cap ∧ q.rd < p.cap ∧ q.wr < p.cap

/-- A Compressed Delay Queue: pointers in range, `wr` ahead of `rd` by the occupancy, and a transaction in every
occupied slot (10_state.md R37; 46_delay_queues.md R257). -/
abbrev cdqOk (p : CdqParams) (q : Cdq) : Prop :=
  q.slots.length = p.cap ∧ q.rd < p.cap ∧ q.count ≤ p.cap ∧ q.wr = (q.rd + q.count) % p.cap ∧
    ∀ k < q.count, (q.slots.getD ((q.rd + k) % p.cap) CSlot.empty).txn.isSome = true

/-- Every transaction in a link's two rings and in its packet in progress is servable, and the packet has a flit
left (10_state.md R41). -/
abbrev inFlightOk (lp : LinkParams) (l : Link) : Prop :=
  (l.dq.slots.all fun f => f.txn.all (servable lp)) = true ∧
    (l.cdq.slots.all fun c => c.txn.all (servable lp)) = true ∧
    (l.cur.all fun c => decide (1 ≤ c.left) && servable lp c.txn) = true

/-- A link between commands: shapes and ranges (10_state.md R39 to R45), the ring offset of 46_delay_queues.md R245,
and cleared leftover counters on a plain link, which has none, and when no packet is in progress (48_compressed_link.md
R309). -/
def linkOk (lp : LinkParams) (l : Link) : Bool :=
  decide (readyOk lp l.ready ∧ readyOk lp l.readyLong ∧ readyOk lp l.readyShort ∧ doneOk lp l.done ∧
    dqOk lp.dq l.dq ∧ l.dq.wr = (l.dq.rd + lp.dq.latency) % lp.dq.cap ∧
    (lp.kind = .compressed → cdqOk lp.cdq l.cdq) ∧ inFlightOk lp l ∧
    l.rr < lp.sources ∧ l.crr < lp.sources ∧
    l.leftover < lp.flitBits ∧ l.leftoverNodata < lp.flitBits ∧
    (lp.kind = .plain ∨ l.cur.isNone = true → l.leftover = 0 ∧ l.leftoverNodata = 0))

/-- An SC2 encoder: `calls` within 0..T, each phase with its own map, maps in canonical form, counts positive, at
most 1024 codes (10_state.md R30; 45_sc2.md R221, R225). -/
def sc2Ok (p : Params) (c : Sc2) : Bool :=
  decide ((c.phase = .sampling → c.calls < p.sc2WarmupCalls ∧ c.codelen = []) ∧
    (c.phase = .steady → c.calls = p.sc2WarmupCalls ∧ c.freq = []) ∧
    symsRise c.freq = true ∧ (c.freq.all fun e => decide (0 < e.2)) = true ∧
    symsRise c.codelen = true ∧ c.codelen.length ≤ sc2HeapCapacity)

/-- The encoders' state: dictionaries of sixteen entries, BDI state codes 0 to 8, SC2 as above (10_state.md R28 to R30). -/
def encodersOk (s : State) : Bool :=
  decide (s.cpackDict.length = 16 ∧ s.engine.dict.length = 16 ∧
    s.bdiState.toNat ≤ 8 ∧ s.engine.bdiState.toNat ≤ 8 ∧
    sc2Ok s.cfg s.sc2 = true ∧ sc2Ok s.cfg s.engine.sc2 = true)

/-- The registers: a legal fault code, a valid configuration while there is no fault, RES_VALID telling whether
RES_TXN is a transaction, remainders below 1, a line latch of at most 128 bytes (10_state.md R22, R24, R46; 60_exceptions.md R346, R353). -/
def registersOk (s : State) : Bool :=
  decide (s.fault.toNat ≤ 8 ∧ (s.fault = 0 → configOk s.cfg = true) ∧ s.resValid = s.resTxn.isSome ∧
    s.remDn < 2 ^ s.cfg.bwFrac ∧ s.remUp < 2 ^ s.cfg.bwFrac ∧ s.opLine.length ≤ 128)

/-- The queues and links that the instance contains (30_encoding.md R82). -/
def unitsOk (s : State) : Bool :=
  decide ((s.cfg.has .dq = true → dqOk s.cfg.dq s.dq) ∧
    (s.cfg.has .cdq = true → cdqOk s.cfg.cdq s.cdq) ∧
    (s.cfg.has .lnk = true → linkOk s.cfg.lnk s.lnk = true) ∧
    (s.cfg.has .mldn = true → linkOk s.cfg.dnLink s.dn = true) ∧
    (s.cfg.has .mlup = true → linkOk s.cfg.upLink s.up = true))

/-- The invariant of the machine: registers and encoders always, queues and links of a valid configuration. -/
abbrev State.wf (s : State) : Prop :=
  registersOk s = true ∧ encodersOk s = true ∧ (configOk s.cfg = true → unitsOk s = true)

end Sys2Proof.Machine
end

