-- ==== Sys2Proof/Certificates/Slice0/Obligations.lean ====
section
/-! DEFINITION. The statements for the provers, from the numbered rules of spec/, with the few functions that
they are written in (Sys2Proof.Claims). "Log n" is notes/assumptions/<n>.md. -/

namespace Sys2Proof.Claims

open Sys2Proof.Machine

/-- Bits 31 to 24 of the words of the 48 rows of spec/30_encoding.md R83. -/
def tableOpcodes : List Nat :=
  [0x00, 0x01] ++ [0x10, 0x11, 0x12] ++ [0x20, 0x21, 0x22, 0x23] ++ [0x30, 0x31, 0x32] ++ [0x40, 0x41, 0x42]
    ++ [0x50, 0x51, 0x52] ++ [0x60, 0x61, 0x62] ++ [0x70, 0x71, 0x72] ++ [0x80, 0x81]
    ++ [0x90, 0x91, 0x92, 0x93] ++ [0xA0, 0xA1, 0xA2, 0xA3, 0xA4, 0xA5]
    ++ [0xB0, 0xB1, 0xB2, 0xB3, 0xB4, 0xB5] ++ [0xC0, 0xC1, 0xC2, 0xC3, 0xC4, 0xC5]

/-- The unit of a command (spec/30_encoding.md R82, R83). -/
def unitOf : Instr → UnitId
  | .sysReset | .sysRdfault => .sys
  | .mpcCompress _ | .mpcTotu | .mpcTotc => .mpc
  | .bdiCompress _ | .bdiTotu | .bdiTotc | .bdiRdstate => .bdi
  | .fpcCompress _ | .fpcTotu | .fpcTotc => .fpc
  | .bpcCompress _ | .bpcTotu | .bpcTotc => .bpc
  | .cpackCompress _ | .cpackTotu | .cpackTotc => .cpack
  | .sc2Compress _ | .sc2Totu | .sc2Totc => .sc2
  | .engCompress _ | .engTotu | .engTotc => .eng
  | .dqPush _ _ _ | .dqPop => .dq
  | .cdqPush _ | .cdqTop | .cdqPop | .cdqFull => .cdq
  | .lnkPush _ | .lnkFull _ | .lnkStep _ | .lnkEmpty _ | .lnkTop _ | .lnkPop _ => .lnk
  | .mldnPush _ | .mldnFull _ | .mldnStep | .mldnEmpty _ | .mldnTop _ | .mldnPop _ => .mldn
  | .mlupPush _ | .mlupFull _ | .mlupStep | .mlupEmpty _ | .mlupTop _ | .mlupPop _ => .mlup

/-- A unit can run its commands: no fault is latched and the instance has the unit (R350, R87). -/
abbrev runs (u : UnitId) (s : State) : Prop := s.fault = 0 ∧ s.cfg.has u = true

/-- The state after `raise` of a code, written out (R349). -/
def afterFault (code : BitVec 8) (s : State) : State :=
  { s with fault := code, res := 0, res64 := 0, resTxn := none, resValid := false }

/-- A Delay Queue after a list of uses in order: `some f` pushes the flit f, `none` pops. -/
def dqRun (p : DqParams) : List (Option Slot) → Dq → Dq
  | [], q => q
  | some f :: rest, q => dqRun p rest (dqPush p q f)
  | none :: rest, q => dqRun p rest (dqAfterPop p q)

/-- `(wr - rd) mod cap` of a Delay Queue (R243, R245). -/
def dqOffset (p : DqParams) (q : Dq) : Nat := (q.wr + p.cap - q.rd) % p.cap

/-- The entries that a Compressed Delay Queue holds, oldest first: its occupied slots from `rd` on. -/
def cdqEntries (p : CdqParams) (q : Cdq) : List CSlot :=
  (List.range q.count).map fun k => q.slots.getD ((q.rd + k) % p.cap) CSlot.empty

/-- The transactions that n pops of a Delay Queue return, in order (R271). -/
def poppedTxns (p : DqParams) : Nat → Dq → List Txn
  | 0, _ => []
  | n + 1, q => (dqHead q).toList ++ poppedTxns p n (dqAfterPop p q)

/-- Transactions appended, in order, each to the completed queue of its destination (R271). -/
def delivered (done : List (List Txn)) (ts : List Txn) : List (List Txn) :=
  ts.foldl (fun d t => enqAt d t.dst t) done

/-- The flits of a packet from the one after `k` of them on, `n` of them (R274). -/
def packetFlitList (c : Packet) (n : Nat) : List Slot :=
  (List.range n).map fun j =>
    { txn := some c.txn, head := c.first && j == 0, tail := c.left == j + 1 }

/-- The budgets of successive memory-link steps with the given bandwidths, from a remainder (R332). -/
def budgets (p : Params) : Nat → List Nat → List Nat
  | _, [] => []
  | rem, bw :: rest => bwBudget p bw rem :: budgets p (bwRemainder p bw rem) rest

/-- The remainder after those steps (R332). -/
def lastRemainder (p : Params) : Nat → List Nat → Nat
  | rem, [] => rem
  | rem, bw :: rest => lastRemainder p (bwRemainder p bw rem) rest

/-- A step of a link can meet no fault: completed queues are unbounded, types are tested at PUSH, and on a
compressed link the engine admits the length of every long transaction that waits (R295, R358). -/
abbrev stepCannotFault (p : Params) (lp : LinkParams) (l : Link) : Prop :=
  lp.doneDepth = none ∧ lp.badTypeAt = .push ∧
    (lp.kind = .compressed → p.alg.isSome = true ∧ 128 ≤ p.maxLineBytes ∧
      ∀ q ∈ l.readyLong, ∀ t ∈ q, t.len = 32 ∨ t.len = 128)

/-- A link after the n pops of a step: the ring popped n times, the transactions delivered in order, and nothing else
(R271). -/
def popped (lp : LinkParams) (n : Nat) (l : Link) : Link :=
  { l with
    dq := dqRun lp.dq (List.replicate n none) l.dq
    done := delivered l.done (poppedTxns lp.dq n l.dq) }

/-- The end of a compressed link's step: both leftovers are dropped if no packet is in progress, and the step counter
advances (R306, R307). -/
def ticked (l : Link) : Link :=
  { l with
    leftover := if l.cur = none then 0 else l.leftover
    leftoverNodata := if l.cur = none then 0 else l.leftoverNodata
    cycle := l.cycle + 1 }

/-- What a completed step of n does to a link and the engine: n pops and n pushes on the ring, delivery in order, one tick
on a compressed link (R271, R272, R307); in parts, the pops, then the n pushes, then on a compressed link the compression
pass, the discard and the tick (R270, R297), a plain link leaving the engine alone. With COMP_PASS_FIRST the pass stands
before the pushes (log 13). -/
def stepped (p : Params) (lp : LinkParams) (n : Nat) (l l' : Link) (e e' : Engine) : Prop :=
  l'.dq.rd = (l.dq.rd + n) % lp.dq.cap ∧ l'.dq.wr = (l.dq.wr + n) % lp.dq.cap ∧
    l'.done = delivered l.done (poppedTxns lp.dq n l.dq) ∧
    l'.cycle = (if lp.kind = .compressed then l.cycle + 1 else l.cycle) ∧
    (lp.kind = .plain → pushPhase lp n (popped lp n l) = .ok l' ∧ e' = e) ∧
    (lp.kind = .compressed → lp.compPassFirst = false →
      ∃ k j : Link, pushPhase lp n (popped lp n l) = .ok k ∧ compressionPass p lp k e = .ok (j, e') ∧ l' = ticked j) ∧
    (lp.kind = .compressed → lp.compPassFirst = true →
      ∃ k j : Link, compressionPass p lp (popped lp n l) e = .ok (k, e') ∧ pushPhase lp n k = .ok j ∧ l' = ticked j)

/-- The first source from the cursor on with a transaction in an array of ready queues (R273, R304). -/
abbrev firstReady (lp : LinkParams) (rr : Nat) (qs : List (List Txn)) (s : Nat) : Prop :=
  ∃ k < lp.sources, s = (rr + lp.rrStartOffset + k) % lp.sources ∧ queueAt qs s ≠ [] ∧
    ∀ j < k, queueAt qs ((rr + lp.rrStartOffset + j) % lp.sources) = []

/-- No source has a transaction in an array of ready queues. -/
abbrev noneReady (lp : LinkParams) (qs : List (List Txn)) : Prop := ∀ s < lp.sources, queueAt qs s = []

/-- The words of B bytes of a line, sign-extended: v[i] = sext(MemReadLE(B * i, B)) (R155). -/
def bdiWords (line : Line) (b : Nat) : List Int :=
  (List.range (line.length / b)).map fun i => sext (8 * b) (memReadLE line (b * i) b)

/-- Two set bits in all, in neighbouring positions c and c + 1 (R126, R191). -/
def twoAdjacentOnes (bs : List Bool) : Prop :=
  bs.count true = 2 ∧ ∃ c : Nat, bs[c]? = some true ∧ bs[c + 1]? = some true

/-- Residue i of a sub-block, `(sb[i] - p[i]) mod 256` (R115). -/
def residueOf (g : PredComp) (sb : Line) (i : Nat) : Nat :=
  ((sb.getD i 0).toNat + 256 - (predict g.pred sb i).toNat) % 256

/-- `X[k][i]`: bit k of residue i, XORed with bit k + 1 below the top plane if the XOR stage is consecutive
(R121, R122). -/
def stageBit (p : Params) (g : PredComp) (sb : Line) (k i : Nat) : Bool :=
  if (g.xor = .consecutive ∨ p.mpcForceConsecXor = true) ∧ k < 7 then
    Bool.xor ((residueOf g sb i).testBit k) ((residueOf g sb i).testBit (k + 1))
  else (residueOf g sb i).testBit k

/-- The predictions of the four predictors (R116 to R119). -/
def predictorsPredict : Prop :=
  ∀ (sb : Line) (i : Nat),
    (∀ table, predict (.weightBase table) sb i = Config.mpcWeightPred table sb i) ∧
    (∀ (base : List (Option Nat)) (off : List Int),
      (∀ j, base.getD i none = some j →
        ((predict (.diffBase base off) sb i).toNat : Int) = ((sb.getD j 0).toNat + off.getD i 0) % 256) ∧
      (base.getD i none = none → predict (.diffBase base off) sb i = 0)) ∧
    (∀ root, predict (.oneBase root) sb root = 0 ∧
      (i ≠ root → predict (.oneBase root) sb i = sb.getD root 0)) ∧
    predict .consecutiveBase sb 0 = 0 ∧ predict .consecutiveBase sb (i + 1) = sb.getD i 0

/-- The matrix of a general module has the shape of its scan, and holds `X[k][i]` where the scan names (k, i), for planes
0 to 7 and positions 0 to 31 (R115, R123). -/
def matrixIsScanned : Prop :=
  ∀ (p : Params) (g : PredComp) (sb : Line),
    (mpcMatrix p g sb).map List.length = g.scan.map List.length ∧
      ∀ r c k i : Nat, (g.scan.getD r [])[c]? = some (k, i) → k < 8 → i < 32 →
        ((mpcMatrix p g sb).getD r [])[c]? = some (stageBit p g sb k i)

/-- The five categories of a row with a set bit, first match (R126). -/
def rowCategories : Prop :=
  ∀ row : List Bool, true ∈ row →
    (row.count true = 1 → rowCost row = 7) ∧ (twoAdjacentOnes row → rowCost row = 8) ∧
    (row.count true ≠ 1 → ¬twoAdjacentOnes row →
      (true ∉ row.take (row.length / 2) → rowCost row = 12) ∧ (true ∉ row.drop (row.length / 2) → rowCost row = 12) ∧
      (true ∈ row.take (row.length / 2) → true ∈ row.drop (row.length / 2) → rowCost row = 17))

/-- `RowBits`: a row with a set bit costs its category; a maximal run of zero rows 4 bits if it is one row, else 7
(R125). -/
def rowBitsByRuns : Prop :=
  rowBits [] = 0 ∧
    (∀ (row : List Bool) (rest : List (List Bool)), true ∈ row → rowBits (row :: rest) = rowCost row + rowBits rest) ∧
    ∀ zeros rest : List (List Bool), zeros ≠ [] → (∀ row ∈ zeros, true ∉ row) →
      (rest = [] ∨ ∃ row rest', rest = row :: rest' ∧ true ∈ row) →
        rowBits (zeros ++ rest) = (if zeros.length = 1 then 4 else 7) + rowBits rest

/-- The key order of heap nodes: smaller frequency first, then smaller serial number (R227). -/
def keyBefore (a b : HuffNode) : Prop := a.f < b.f ∨ (a.f = b.f ∧ a.seq < b.seq)

/-- One round on a heap: the two nodes with the least keys leave it, the least as left child, and their parent enters it
with the sum of their frequencies and the next serial number (R227, R228). -/
def huffmanRound (next : Nat) (heap heap' : List HuffNode) : Prop :=
  ∃ (a b : HuffNode) (rest : List HuffNode),
    heap.Perm (a :: b :: rest) ∧ keyBefore a b ∧ (∀ x ∈ rest, keyBefore b x) ∧
      heap'.Perm ({ f := a.f + b.f, seq := next, tree := .node a.tree b.tree } :: rest)

/-- A number of rounds leave the root as the one node of the heap (R228). -/
def mergesTo : Nat → Nat → List HuffNode → HuffNode → Prop
  | 0, _, heap, root => heap = [root]
  | rounds + 1, next, heap, root => ∃ heap', huffmanRound next heap heap' ∧ mergesTo rounds (next + 1) heap' root

/-- The depth of a symbol's leaf in a tree (R228). -/
def depthOf (s : Word32) : HuffTree → Option Nat
  | .leaf x => if x = s then some 0 else none
  | .node l r => ((depthOf s l).or (depthOf s r)).map (· + 1)

/-- Row i of a line: its 4-byte word, sign-extended (R186). -/
def bpcRow (line : Line) (i : Nat) : Int := sext 32 (memReadLE line (4 * i) 4)

/-- `DBP[c][j]`: bit c of the 33-bit pattern of the j-th delta (R186, R187). -/
def dbpBit (line : Line) (c j : Nat) : Bool := ((bpcRow line (j + 1) - bpcRow line j) % 2 ^ 33).toNat.testBit c

/-- `DBX[c][j]`: the bit XORed with the one of the plane above, plane 32 unchanged (R187). -/
def dbxBit (line : Line) (c j : Nat) : Bool :=
  if c = 32 then dbpBit line 32 j else Bool.xor (dbpBit line c j) (dbpBit line (c + 1) j)

/-- `DBP[c]` and `DBX[c]`: one bit for each of the nD = n - 1 deltas (R186, R187). -/
def dbpPlane (line : Line) (c : Nat) : List Bool := (List.range (line.length / 4 - 1)).map (dbpBit line c)
def dbxPlane (line : Line) (c : Nat) : List Bool := (List.range (line.length / 4 - 1)).map (dbxBit line c)

/-- How many planes in a row have a zero DBX, from column c upward (R188). -/
def zeroRunFrom (line : Line) (c : Nat) : Nat :=
  ((List.range' c (33 - c)).takeWhile fun k => !(dbxPlane line k).contains true).length

/-- What column c adds to a line's bits: a non-zero plane its own cost; a zero plane that ends a run (the lowest column,
or a non-zero plane just below) the cost of the run; any other zero plane nothing (R188). -/
def columnBits (p : Params) (line : Line) (c : Nat) : Nat :=
  if true ∈ dbxPlane line c then planeCost (dbpPlane line c) (dbxPlane line c)
  else if c = 0 ∨ true ∈ dbxPlane line (c - 1) then zrlCost p (zeroRunFrom line c)
  else 0

/-- The five classes of the first word, with the default parameters (R189). -/
def firstWordClasses : Prop :=
  ∀ (p : Params) (x : Int), p.bpcFirstWordAlwaysZero = false → p.bpcLowerBound = [] →
    firstWordCost p x =
      if x = 0 then 3
      else if -8 ≤ x ∧ x ≤ 7 then 7
      else if -128 ≤ x ∧ x ≤ 127 then 11
      else if -32768 ≤ x ∧ x ≤ 32767 then 19
      else 33

/-- The five categories of a plane with a non-zero DBX, first match (R191). -/
def planeCategories : Prop :=
  ∀ dbp dbx : List Bool, true ∈ dbx →
    (true ∉ dbp → planeCost dbp dbx = 5) ∧
    (true ∈ dbp →
      (false ∉ dbx → planeCost dbp dbx = 5) ∧
      (false ∈ dbx →
        (dbx.count true = 1 → planeCost dbp dbx = 10) ∧ (twoAdjacentOnes dbx → planeCost dbp dbx = 10) ∧
        (dbx.count true ≠ 1 → ¬twoAdjacentOnes dbx → planeCost dbp dbx = 32)))

/-- The predictor's name is recognised and its tables are in range (R110, R345). -/
def validPredictor : Predictor → Prop
  | .weightBase _ => True
  | .diffBase base off =>
    base.length = 32 ∧ off.length = 32 ∧ (∀ j, some j ∈ base → j < 32) ∧ ∀ o ∈ off, -128 ≤ o ∧ o ≤ 127
  | .oneBase root => root < 32
  | .consecutiveBase => True
  | .unrecognised => False

/-- The scan is a bijection from R rows of C columns onto planes 0..7 and positions 0..31: 256 places, every one in
range, no entry twice, every target met (R110). -/
def validScan (p : Params) (scan : List (List (Nat × Nat))) : Prop :=
  scan.length = p.mpcRows ∧ (∀ row ∈ scan, row.length = p.mpcCols) ∧ scan.flatten.length = 256 ∧
    (∀ e ∈ scan.flatten, e.1 < 8 ∧ e.2 < 32) ∧ scan.flatten.Nodup ∧
    ∀ k < 8, ∀ i < 32, (k, i) ∈ scan.flatten

/-- `MPC_CFG` is valid (R110): at most one module of each fast-path kind, at least one PredComp, every fast-path module
before every PredComp, `lineSize` a positive multiple of 32, every name recognised and every table of its shape. -/
def validMpcCfg (p : Params) : Prop :=
  (p.mpc.modules.filter fun m => m.kind == .allZero).length ≤ 1 ∧
    (p.mpc.modules.filter fun m => m.kind == .allWordSame).length ≤ 1 ∧
    (∃ m ∈ p.mpc.modules, ∃ g, m.kind = .predComp g) ∧
    (∀ (i j : Nat) (m n : MpcModule) (g : PredComp), p.mpc.modules[i]? = some m → p.mpc.modules[j]? = some n →
      m.kind = .predComp g → n.kind = .allZero ∨ n.kind = .allWordSame → j < i) ∧
    0 < p.mpc.lineSize ∧ p.mpc.lineSize % 32 = 0 ∧
    ∀ m ∈ p.mpc.modules, m.kind ≠ .unrecognised ∧
      ∀ g, m.kind = .predComp g →
        validPredictor g.pred ∧ validScan p g.scan ∧ g.bitplaneKnown = true ∧ g.patternKnown = true

/-- A cause of F_CONFIG in a Delay Queue's parameters (R353). -/
def dqCause (d : DqParams) : Prop := d.size < 1 ∨ d.latency < 1

/-- A cause of F_CONFIG in a link's parameters (R353); a plain link has no compressed queue (log 10). -/
def linkCause (lp : LinkParams) : Prop :=
  lp.sources < 1 ∨ 256 < lp.sources ∨ lp.dests < 1 ∨ 256 < lp.dests ∨ lp.flitBits < 1 ∨ lp.headBits < 1 ∨
    dqCause lp.dq ∨ (lp.kind = .compressed ∧ lp.cdq.size < 1) ∨ lp.readyDepth < 1 ∨ lp.doneDepth = some 0

/-- The causes of F_CONFIG (R353), each tested where the instance has the part it belongs to (log 10). -/
def configCause (p : Params) : Prop :=
  p.alg = none ∨ ((p.has .mpc = true ∨ p.alg = some .mpc) ∧ ¬validMpcCfg p) ∨
    (p.has .dq = true ∧ dqCause p.dq) ∨ (p.has .cdq = true ∧ p.cdq.size < 1) ∨
    (p.has .lnk = true ∧ linkCause p.lnk) ∨ (p.has .mldn = true ∧ linkCause p.dn) ∨
    (p.has .mlup = true ∧ linkCause p.up)

end Sys2Proof.Claims

open Sys2Proof Sys2Proof.Machine Sys2Proof.Claims

/-! ### Encoding and the step -/

/-- R81, R83: the decoder reads every well-formed command back from its word, with every operand. -/
def Obligations.DecodeReadsBackEveryCommand : Prop :=
  ∀ i : Instr, i.wf = true → decode (encode i) = .ok i

/-- R86: bits 31 to 24 alone say whether a word is a command and which row it is; the other bits never do. -/
def Obligations.DecodingIsByTheTopByteAlone : Prop :=
  ∀ w : Word32,
    (w.toNat / 2 ^ 24 ∈ tableOpcodes → ∃ i, decode w = .ok i ∧ (encode i).toNat / 2 ^ 24 = w.toNat / 2 ^ 24) ∧
      (w.toNat / 2 ^ 24 ∉ tableOpcodes → ∃ r, decode w = .error r)

/-- Words of spec/95_test_vectors.md Part 3 and 2.11 decode to the commands they stand for there. -/
def Obligations.WordsOfTheSpecDecode : Prop :=
  decode 0x10000020 = .ok (.mpcCompress 32) ∧ decode 0x23000000 = .ok .bdiRdstate ∧
    decode 0x30000020 = .ok (.fpcCompress 32) ∧ decode 0x50A50014 = .ok (.cpackCompress 20) ∧
    decode 0x61000000 = .ok .sc2Totu ∧ decode 0x72000000 = .ok .engTotc ∧
    decode 0x80000001 = .ok (.dqPush false true false) ∧ decode 0xA0010000 = .ok (.lnkPush 1) ∧
    decode 0xA2000001 = .ok (.lnkStep 1) ∧ decode 0xB2000000 = .ok .mldnStep ∧
    decode 0xC4000000 = .ok (.mlupTop 0) ∧ decode 0xD0000000 = .error (.reservedUnit 13) ∧
    decode 0x33000000 = .error (.reservedVerb 3 3)

/-- R14, R22 (log 3): when the host's next event is a command that decodes, the step is that command, on the
state with the event taken and the latches written: a latch that the event leaves out keeps its value, and of a line
the first 128 bytes reach the latch (log 35). -/
def Obligations.StepRunsTheDecodedCommand : Prop :=
  ∀ (s : State) (c : Command) (rest : List HostEvent) (i : Instr),
    s.inbox = .command c :: rest → decode c.word = .ok i →
      step s = exec i
        { s with
          inbox := rest, cmd := c.word, opTxn := c.txn.getD s.opTxn,
          opLine := (c.line.map fun l => l.take 128).getD s.opLine,
          opBw := c.bw.getD s.opBw, opNow := c.now.getD s.opNow }

/-- R380, R381 (log 3, log 25): the reset pin does what SYS.RESET does, and with no event the block waits. -/
def Obligations.ResetPinActsAsSysResetAndTheBlockWaits : Prop :=
  (∀ (s : State) (rest : List HostEvent), s.inbox = .resetPin :: rest →
      step s = exec .sysReset { s with inbox := rest }) ∧
    ∀ s : State, s.inbox = [] → step s = .next s

/-- R348, R350, R363; R8, R50 (log 1): no command and no word stops the machine: every step has a next state, and it
keeps the static parameters. -/
def Obligations.EveryStepCompletesAndKeepsTheParameters : Prop :=
  ∀ s : State, ∃ t, step s = .next t ∧ t.cfg = s.cfg

/-! ### Faults and reset -/

/-- R350: while FAULT is not 0 every command but SYS.RESET and SYS.RDFAULT changes no state and zeroes the result
latches, and so does every word that is no command. -/
def Obligations.FaultedBlockRefusesCommands : Prop :=
  ∀ s : State, s.fault ≠ 0 →
    (∀ i : Instr, i ≠ .sysReset → i ≠ .sysRdfault →
      exec i s = .next { s with res := 0, res64 := 0, resTxn := none, resValid := false }) ∧
    ∀ (c : Command) (rest : List HostEvent), s.inbox = .command c :: rest →
      c.word.toNat / 2 ^ 24 ∉ tableOpcodes →
        step s = .next
          { State.present { s with inbox := rest } c with
            res := 0, res64 := 0, resTxn := none, resValid := false }

/-- R348, R349: a command other than SYS.RESET that ends with a fault latched, from a state without one, changes
nothing but FAULT and the result latches, which it zeroes, and the code is one of 1 to 8. -/
def Obligations.FaultingCommandsChangeNothingElse : Prop :=
  ∀ (i : Instr) (s t : State), i ≠ .sysReset → s.fault = 0 → exec i s = .next t → t.fault ≠ 0 →
    t = afterFault t.fault s ∧ t.fault.toNat ≤ 8

/-- R347, R363: FAULT keeps its first code until reset: a step changes a latched code only by a pull of the
reset pin or by SYS.RESET. -/
def Obligations.OnlyResetClearsAFault : Prop :=
  ∀ s t : State, s.fault ≠ 0 → step s = .next t → t.fault ≠ s.fault →
    s.inbox.head? = some .resetPin ∨
      ∃ c, s.inbox.head? = some (.command c) ∧ decode c.word = .ok .sysReset

/-- R87 (R84): a word in no row of R83, a command to a unit that the instance does not contain, and a command with a
source index not below S or a destination index not below DST, on each of the three links, raise F_BADCMD (code 1)
and change no other state. -/
def Obligations.IllegalCommandsRaiseBadCmd : Prop :=
  ∀ s : State, s.fault = 0 →
    (∀ (c : Command) (rest : List HostEvent), s.inbox = .command c :: rest →
      c.word.toNat / 2 ^ 24 ∉ tableOpcodes →
        step s = .next (afterFault 1 (State.present { s with inbox := rest } c))) ∧
    (∀ i : Instr, s.cfg.has (unitOf i) = false → exec i s = .next (afterFault 1 s)) ∧
    ∀ k : Nat,
    (s.cfg.lnk.sources ≤ k → exec (.lnkPush k) s = .next (afterFault 1 s) ∧
      exec (.lnkFull k) s = .next (afterFault 1 s)) ∧
    (s.cfg.lnk.dests ≤ k → exec (.lnkEmpty k) s = .next (afterFault 1 s) ∧
      exec (.lnkTop k) s = .next (afterFault 1 s) ∧ exec (.lnkPop k) s = .next (afterFault 1 s)) ∧
    (s.cfg.dn.sources ≤ k → exec (.mldnPush k) s = .next (afterFault 1 s) ∧
      exec (.mldnFull k) s = .next (afterFault 1 s)) ∧
    (s.cfg.dn.dests ≤ k → exec (.mldnEmpty k) s = .next (afterFault 1 s) ∧
      exec (.mldnTop k) s = .next (afterFault 1 s) ∧ exec (.mldnPop k) s = .next (afterFault 1 s)) ∧
    (s.cfg.up.sources ≤ k → exec (.mlupPush k) s = .next (afterFault 1 s) ∧
      exec (.mlupFull k) s = .next (afterFault 1 s)) ∧
    (s.cfg.up.dests ≤ k → exec (.mlupEmpty k) s = .next (afterFault 1 s) ∧
      exec (.mlupTop k) s = .next (afterFault 1 s) ∧ exec (.mlupPop k) s = .next (afterFault 1 s))

/-- R66, R354: a byte count that is 0, not a multiple of the encoder's unit or above MAX_LINE_BYTES raises F_BADLEN
(code 2), and the totals, dictionary and SC2 counter are unchanged like all else. -/
def Obligations.UnadmittedByteCountsRaiseBadLen : Prop :=
  ∀ (s : State) (n : Nat),
    (runs .mpc s → n = 0 ∨ n % 32 ≠ 0 ∨ s.cfg.maxLineBytes < n →
      exec (.mpcCompress n) s = .next (afterFault 2 s)) ∧
    (runs .bdi s → n = 0 ∨ n % 8 ≠ 0 ∨ s.cfg.maxLineBytes < n →
      exec (.bdiCompress n) s = .next (afterFault 2 s)) ∧
    (runs .fpc s → n = 0 ∨ n % 4 ≠ 0 ∨ s.cfg.maxLineBytes < n →
      exec (.fpcCompress n) s = .next (afterFault 2 s)) ∧
    (runs .bpc s → n = 0 ∨ n % 4 ≠ 0 ∨ s.cfg.maxLineBytes < n →
      exec (.bpcCompress n) s = .next (afterFault 2 s)) ∧
    (runs .cpack s → n = 0 ∨ n % 4 ≠ 0 ∨ s.cfg.maxLineBytes < n →
      exec (.cpackCompress n) s = .next (afterFault 2 s)) ∧
    (runs .sc2 s → n = 0 ∨ n % 4 ≠ 0 ∨ s.cfg.maxLineBytes < n →
      exec (.sc2Compress n) s = .next (afterFault 2 s)) ∧
    (∀ a, runs .eng s → s.cfg.alg = some a → n = 0 ∨ n % lineUnit a ≠ 0 ∨ s.cfg.maxLineBytes < n →
      exec (.engCompress n) s = .next (afterFault 2 s))

/-- R266, R291, R352: PUSH with an existing source tests the type, then the destination, then the room, and the first
that fails is the fault raised (codes 3, 4, 5), on each of the three links. The type test stands at PUSH by
default (`BADTYPE_AT`). -/
def Obligations.PushFaultsInTheOrderOfItsTests : Prop :=
  ∀ (s : State) (k : Nat),
    (runs .lnk s → s.cfg.lnk.badTypeAt = .push → k < s.cfg.lnk.sources →
      (3 < s.opTxn.type.toNat → exec (.lnkPush k) s = .next (afterFault 3 s)) ∧
      (s.opTxn.type.toNat ≤ 3 → s.cfg.lnk.dests ≤ s.opTxn.dst → exec (.lnkPush k) s = .next (afterFault 4 s)) ∧
      (s.opTxn.type.toNat ≤ 3 → s.opTxn.dst < s.cfg.lnk.dests →
        (queueAt (readyOf s.cfg.lnk s.lnk s.opTxn) k).length = s.cfg.lnk.readyDepth →
          exec (.lnkPush k) s = .next (afterFault 5 s))) ∧
    (runs .mldn s → s.cfg.dn.badTypeAt = .push → k < s.cfg.dn.sources →
      (3 < s.opTxn.type.toNat → exec (.mldnPush k) s = .next (afterFault 3 s)) ∧
      (s.opTxn.type.toNat ≤ 3 → s.cfg.dn.dests ≤ s.opTxn.dst → exec (.mldnPush k) s = .next (afterFault 4 s)) ∧
      (s.opTxn.type.toNat ≤ 3 → s.opTxn.dst < s.cfg.dn.dests →
        (queueAt (readyOf s.cfg.dn s.dn s.opTxn) k).length = s.cfg.dn.readyDepth →
          exec (.mldnPush k) s = .next (afterFault 5 s))) ∧
    (runs .mlup s → s.cfg.up.badTypeAt = .push → k < s.cfg.up.sources →
      (3 < s.opTxn.type.toNat → exec (.mlupPush k) s = .next (afterFault 3 s)) ∧
      (s.opTxn.type.toNat ≤ 3 → s.cfg.up.dests ≤ s.opTxn.dst → exec (.mlupPush k) s = .next (afterFault 4 s)) ∧
      (s.opTxn.type.toNat ≤ 3 → s.opTxn.dst < s.cfg.up.dests →
        (queueAt (readyOf s.cfg.up s.up s.opTxn) k).length = s.cfg.up.readyDepth →
          exec (.mlupPush k) s = .next (afterFault 5 s)))

/-- R380, R382, R383, R353, R110: SYS.RESET completes whatever FAULT holds and leaves every piece of state at the value of
the table, FAULT at F_CONFIG (code 8) exactly on a cause of it, which are listed one by one (log 10); the parameters, the
input latches and the host's commands to come are not touched (log 4, log 33). -/
def Obligations.SysResetSetsEveryResetValue : Prop :=
  ∀ s : State, ∃ t, exec .sysReset s = .next t ∧
    (configCause s.cfg → t.fault = 8) ∧ (¬configCause s.cfg → t.fault = 0) ∧
    t.res = 0 ∧ t.res64 = 0 ∧ t.resValid = false ∧ t.resTxn = none ∧
    (∀ u ∈ [t.mpcTot, t.bdiTot, t.fpcTot, t.bpcTot, t.cpackTot, t.sc2Tot, t.engine.tot], u.unc = 0 ∧ u.cmp = 0) ∧
    t.bdiState = 8 ∧ t.engine.bdiState = 8 ∧
    (∀ d ∈ [t.cpackDict, t.engine.dict], d = List.replicate 16 { b0 := 0, b1 := 0, b2 := 0, b3 := 0 }) ∧
    (∀ c ∈ [t.sc2, t.engine.sc2], c.calls = 0 ∧ c.freq = [] ∧ c.codelen = [] ∧
      c.phase = (if 0 < s.cfg.sc2WarmupCalls then .sampling else .steady)) ∧
    (∀ x ∈ [(s.cfg.dq, t.dq), (s.cfg.lnk.dq, t.lnk.dq), (s.cfg.dn.dq, t.dn.dq), (s.cfg.up.dq, t.up.dq)],
      x.2.slots = List.replicate (x.1.size + x.1.latency) { txn := none, head := false, tail := false } ∧
        x.2.rd = 0 ∧ x.2.wr = x.1.latency % (x.1.size + x.1.latency)) ∧
    (∀ x ∈ [(s.cfg.cdq, t.cdq), (s.cfg.lnk.cdq, t.lnk.cdq), (s.cfg.dn.cdq, t.dn.cdq), (s.cfg.up.cdq, t.up.cdq)],
      x.2.slots = List.replicate (x.1.size + x.1.latency) { txn := none, size := 0, pushCycle := 0 } ∧
        x.2.rd = 0 ∧ x.2.wr = 0 ∧ x.2.count = 0) ∧
    (∀ x ∈ [(s.cfg.lnk, t.lnk), (s.cfg.dn, t.dn), (s.cfg.up, t.up)],
      (∀ q ∈ [x.2.ready, x.2.readyLong, x.2.readyShort], q = List.replicate x.1.sources []) ∧
        x.2.done = List.replicate x.1.dests [] ∧ x.2.rr = 0 ∧ x.2.crr = 0 ∧ x.2.cur = none ∧
        x.2.leftover = 0 ∧ x.2.leftoverNodata = 0 ∧ x.2.cycle = 0) ∧
    t.remDn = 0 ∧ t.remUp = 0 ∧
    t.cfg = s.cfg ∧ t.inbox = s.inbox ∧ t.cmd = s.cmd ∧ t.opTxn = s.opTxn ∧ t.opLine = s.opLine ∧
    t.opBw = s.opBw ∧ t.opNow = s.opNow

/-- R351: SYS.RDFAULT puts FAULT, zero-extended, in RES, is never refused and changes no other state; the word is
unit 0, verb 1; after a CPACK.COMPRESS with `arg` = 6 it gives 2. -/
def Obligations.RdfaultReadsTheFaultRegister : Prop :=
  (∀ s : State, exec .sysRdfault s = .next { s with res := BitVec.ofNat 32 s.fault.toNat }) ∧
    (∀ w : Word32, cmdUnit w = 0 → cmdVerb w = 1 → decode w = .ok .sysRdfault) ∧
    ∀ s t u : State, runs .cpack s → exec (.cpackCompress 6) s = .next t → exec .sysRdfault t = .next u → u.res = 2

/-! ### The encoders: what a command does -/

/-- R15, R111, R170, R185: on an admitted byte count MPC, FPC and BPC complete: RES is the bits of the line, the totals
grow by 8 * byteCount and by the bits, and nothing else changes. -/
def Obligations.StatelessCompressCompletes : Prop :=
  ∀ (s : State) (n : Nat), n ≠ 0 → n ≤ s.cfg.maxLineBytes →
    (runs .mpc s → n % 32 = 0 →
      exec (.mpcCompress n) s = .next
        { s with
          res := BitVec.ofNat 32 (mpcBits s.cfg (lineOf s.opLine n))
          mpcTot :=
            { unc := s.mpcTot.unc + BitVec.ofNat 64 (8 * n)
              cmp := s.mpcTot.cmp + BitVec.ofNat 64 (mpcBits s.cfg (lineOf s.opLine n)) } }) ∧
    (runs .fpc s → n % 4 = 0 →
      exec (.fpcCompress n) s = .next
        { s with
          res := BitVec.ofNat 32 (fpcBits s.cfg (lineOf s.opLine n))
          fpcTot :=
            { unc := s.fpcTot.unc + BitVec.ofNat 64 (8 * n)
              cmp := s.fpcTot.cmp + BitVec.ofNat 64 (fpcBits s.cfg (lineOf s.opLine n)) } }) ∧
    (runs .bpc s → n % 4 = 0 →
      exec (.bpcCompress n) s = .next
        { s with
          res := BitVec.ofNat 32 (bpcBits s.cfg (lineOf s.opLine n))
          bpcTot :=
            { unc := s.bpcTot.unc + BitVec.ofNat 64 (8 * n)
              cmp := s.bpcTot.cmp + BitVec.ofNat 64 (bpcBits s.cfg (lineOf s.opLine n)) } }) ∧
    (n ≤ s.opLine.length → lineOf s.opLine n = s.opLine.take n)

/-- R150, R153, R158: BDI.COMPRESS completes with 4 + body bits and latches the state it chose, and BDI.RDSTATE reads
that latch; nothing else changes. -/
def Obligations.BdiCompressLatchesTheStateThatRdstateReads : Prop :=
  ∀ s : State, runs .bdi s →
    (∀ n, n ≠ 0 → n % 8 = 0 → n ≤ s.cfg.maxLineBytes →
      exec (.bdiCompress n) s = .next
        { s with
          res := BitVec.ofNat 32 (4 + (bdiSelect s.cfg (lineOf s.opLine n)).2)
          bdiState := (bdiSelect s.cfg (lineOf s.opLine n)).1
          bdiTot :=
            { unc := s.bdiTot.unc + BitVec.ofNat 64 (8 * n)
              cmp := s.bdiTot.cmp + BitVec.ofNat 64 (4 + (bdiSelect s.cfg (lineOf s.opLine n)).2) } }) ∧
    exec .bdiRdstate s = .next { s with res := BitVec.ofNat 32 s.bdiState.toNat }

/-- R205: CPACK.COMPRESS completes: the words' costs, in line order, make RES and the total, the dictionary is what
they leave, and nothing else changes. The words are the groups of 4 bytes; each is looked up in the dictionary that the one
before it leaves. -/
def Obligations.CpackCompressCompletes : Prop :=
  (∀ (s : State) (n : Nat), runs .cpack s → n ≠ 0 → n % 4 = 0 → n ≤ s.cfg.maxLineBytes →
    exec (.cpackCompress n) s = .next
      { s with
        res := BitVec.ofNat 32 (cpackLine s.cfg s.cpackDict (lineOf s.opLine n)).1
        cpackDict := (cpackLine s.cfg s.cpackDict (lineOf s.opLine n)).2
        cpackTot :=
          { unc := s.cpackTot.unc + BitVec.ofNat 64 (8 * n)
            cmp := s.cpackTot.cmp + BitVec.ofNat 64 (cpackLine s.cfg s.cpackDict (lineOf s.opLine n)).1 } }) ∧
  ∀ (p : Params) (d : Dict),
    cpackLine p d [] = (0, d) ∧
      ∀ (b0 b1 b2 b3 : Byte) (rest : Line) (bits more : Nat) (d' d'' : Dict),
        cpackWord p d { b0 := b0, b1 := b1, b2 := b2, b3 := b3 } = (bits, d') → cpackLine p d' rest = (more, d'') →
          cpackLine p d (b0 :: b1 :: b2 :: b3 :: rest) = (bits + more, d'')

/-- R62, R220 to R225: SC2.COMPRESS completes. A sampled call costs 33 bits a word and counts every symbol. The call that makes
`calls` = T builds: the code lengths are the Huffman lengths of the pruned sample, the sample is dropped, the phase is
steady, `calls` stays at T. A steady call costs each word's code length, or 33 without one, and leaves the SC2 state as
it was. Nothing else changes. RES is the bits modulo 2^32 (log 19). The symbols are the line's little-endian words. The same
holds of the bits and the SC2 state that a line gives on the shared engine. -/
def Obligations.Sc2CompressCompletes : Prop :=
  (∀ line : Line, lineSymbols line =
    (List.range (line.length / 4)).map fun i => BitVec.ofNat 32 (memReadLE line (4 * i) 4)) ∧
  (∀ (p : Params) (c : Sc2) (line : Line),
    (c.phase = .sampling →
      sc2Line p c line =
        (33 * (line.length / 4),
          if c.calls + 1 = p.sc2WarmupCalls then
            { calls := c.calls + 1
              phase := .steady
              freq := []
              codelen := huffmanLengths p (prune p.sc2PruneOrder (countSyms c.freq (lineSymbols line))) }
          else
            { calls := c.calls + 1
              phase := .sampling
              freq := countSyms c.freq (lineSymbols line)
              codelen := c.codelen })) ∧
    (c.phase = .steady →
      sc2Line p c line = (((lineSymbols line).map fun w => (c.codelen.lookup w).getD 33).sum, c))) ∧
  ∀ (s : State) (n : Nat), runs .sc2 s → n ≠ 0 → n % 4 = 0 → n ≤ s.cfg.maxLineBytes →
    (s.sc2.phase = .sampling →
      exec (.sc2Compress n) s = .next
        { s with
          res := BitVec.ofNat 32 (33 * (n / 4))
          sc2 :=
            if s.sc2.calls + 1 = s.cfg.sc2WarmupCalls then
              { calls := s.sc2.calls + 1
                phase := .steady
                freq := []
                codelen := huffmanLengths s.cfg
                  (prune s.cfg.sc2PruneOrder (countSyms s.sc2.freq (lineSymbols (lineOf s.opLine n)))) }
            else
              { calls := s.sc2.calls + 1
                phase := .sampling
                freq := countSyms s.sc2.freq (lineSymbols (lineOf s.opLine n))
                codelen := s.sc2.codelen }
          sc2Tot :=
            { unc := s.sc2Tot.unc + BitVec.ofNat 64 (8 * n)
              cmp := s.sc2Tot.cmp + BitVec.ofNat 64 (33 * (n / 4)) } }) ∧
    (s.sc2.phase = .steady →
      ∃ bits, bits = ((lineSymbols (lineOf s.opLine n)).map fun w => (s.sc2.codelen.lookup w).getD 33).sum ∧
        exec (.sc2Compress n) s = .next
          { s with
            res := BitVec.ofNat 32 bits
            sc2Tot :=
              { unc := s.sc2Tot.unc + BitVec.ofNat 64 (8 * n)
                cmp := s.sc2Tot.cmp + BitVec.ofNat 64 bits } })

/-- R47, R83 (row ENG): ENG.COMPRESS completes with the COMPRESS of the encoder that ALG names, on the engine's own
state (log 9): its totals, and its BDI latch, dictionary or SC2 state where that encoder has one. RES is the bits modulo
2^32 (log 19). The units 1 to 6 and all else are unchanged. -/
def Obligations.EngCompressIsTheEncoderThatAlgNames : Prop :=
  ∀ (s : State) (n : Nat) (a : Alg), runs .eng s → s.cfg.alg = some a →
    n ≠ 0 → n % lineUnit a = 0 → n ≤ s.cfg.maxLineBytes →
    ∃ (bits : Nat) (e : Engine),
      exec (.engCompress n) s = .next { s with res := BitVec.ofNat 32 bits, engine := e } ∧
      e.tot.unc = s.engine.tot.unc + BitVec.ofNat 64 (8 * n) ∧
      e.tot.cmp = s.engine.tot.cmp + BitVec.ofNat 64 bits ∧
      (a = .mpc → bits = mpcBits s.cfg (lineOf s.opLine n)) ∧
      (a = .bdi → bits = bdiBits s.cfg (lineOf s.opLine n)) ∧
      (a = .fpc → bits = fpcBits s.cfg (lineOf s.opLine n)) ∧
      (a = .bpc → bits = bpcBits s.cfg (lineOf s.opLine n)) ∧
      (a = .cpack → (bits, e.dict) = cpackLine s.cfg s.engine.dict (lineOf s.opLine n)) ∧
      (a = .sc2 → (bits, e.sc2) = sc2Line s.cfg s.engine.sc2 (lineOf s.opLine n)) ∧
      e.bdiState = (if a = .bdi then (bdiSelect s.cfg (lineOf s.opLine n)).1 else s.engine.bdiState) ∧
      (a ≠ .cpack → e.dict = s.engine.dict) ∧ (a ≠ .sc2 → e.sc2 = s.engine.sc2)

/-- R85: TOTU and TOTC of each of the seven encoders put the two totals in RES64 and change nothing else. -/
def Obligations.TotalsAreReadWithoutEffect : Prop :=
  ∀ s : State,
    (runs .mpc s → exec .mpcTotu s = .next { s with res64 := s.mpcTot.unc } ∧
      exec .mpcTotc s = .next { s with res64 := s.mpcTot.cmp }) ∧
    (runs .bdi s → exec .bdiTotu s = .next { s with res64 := s.bdiTot.unc } ∧
      exec .bdiTotc s = .next { s with res64 := s.bdiTot.cmp }) ∧
    (runs .fpc s → exec .fpcTotu s = .next { s with res64 := s.fpcTot.unc } ∧
      exec .fpcTotc s = .next { s with res64 := s.fpcTot.cmp }) ∧
    (runs .bpc s → exec .bpcTotu s = .next { s with res64 := s.bpcTot.unc } ∧
      exec .bpcTotc s = .next { s with res64 := s.bpcTot.cmp }) ∧
    (runs .cpack s → exec .cpackTotu s = .next { s with res64 := s.cpackTot.unc } ∧
      exec .cpackTotc s = .next { s with res64 := s.cpackTot.cmp }) ∧
    (runs .sc2 s → exec .sc2Totu s = .next { s with res64 := s.sc2Tot.unc } ∧
      exec .sc2Totc s = .next { s with res64 := s.sc2Tot.cmp }) ∧
    (runs .eng s → exec .engTotu s = .next { s with res64 := s.engine.tot.unc } ∧
      exec .engTotc s = .next { s with res64 := s.engine.tot.cmp })

/-! ### The encoders: what the bit counts are -/

/-- R62, R170, R171, R173: the words of a line are its groups of 4 bytes, the first byte least significant; the FPC bits
of a list of words are one code of 3 + FPC_ZRUN_PAYLOAD for each maximal run of zero words, counted where it starts, and
3 + payload for each non-zero word. -/
def Obligations.FpcCountsRunsAndWords : Prop :=
  (∀ (line : Line) (addr n : Nat),
    memReadLE line addr n = ((List.range n).map fun k => (line.getD (addr + k) 0).toNat * 256 ^ k).sum) ∧
  ∀ p : Params,
    (∀ line : Line, fpcBits p line =
      fpcWordsBits p false ((List.range (line.length / 4)).map fun i => memReadLE line (4 * i) 4)) ∧
    ∀ ws : List Nat,
      fpcWordsBits p false ws =
        ((List.range ws.length).map fun i =>
          if ws.getD i 0 = 0 then
            if i = 0 ∨ ws.getD (i - 1) 0 ≠ 0 then 3 + p.fpcZrunPayload else 0
          else 3 + fpcPayload p (ws.getD i 0)).sum

/-- R172, R174, R176: the payload of every non-zero 32-bit word is that of a category which the word matches (4 bits only
for SE4, 8 for SE8 or REP, 16 for SE16, ZP16 or H8, else 32), and no category that it matches is cheaper: first match and
cheapest match give the same bit count. The categories are written out as ranges and bytes of the word (ZP16 with its default
reading, log 16). -/
def Obligations.FpcFirstCategoryIsTheCheapest : Prop :=
  (∀ w : Nat, w < 2 ^ 32 →
    (∀ n, 1 ≤ n → n ≤ 32 → (inSigned n (sext 32 w) = true ↔ w < 2 ^ (n - 1) ∨ 2 ^ 32 - 2 ^ (n - 1) ≤ w)) ∧
    (fpcTwoHalves w = true ↔
      (w % 2 ^ 16 < 128 ∨ 2 ^ 16 - 128 ≤ w % 2 ^ 16) ∧ (w / 2 ^ 16 < 128 ∨ 2 ^ 16 - 128 ≤ w / 2 ^ 16)) ∧
    (fpcRepeatedByte w = true ↔ ∃ b < 256, w = b + 2 ^ 8 * b + 2 ^ 16 * b + 2 ^ 24 * b) ∧
    ∀ p : Params, p.fpcZp16LowZero = true → (fpcZeroPadded p w = true ↔ w % 2 ^ 16 = 0)) ∧
  ∀ (p : Params) (w : Nat), 0 < w → w < 2 ^ 32 →
    ((fpcPayload p w = 4 ∧ inSigned 4 (sext 32 w) = true) ∨
      (fpcPayload p w = 8 ∧ (inSigned 8 (sext 32 w) = true ∨ fpcRepeatedByte w = true)) ∨
      (fpcPayload p w = 16 ∧
        (inSigned 16 (sext 32 w) = true ∨ fpcZeroPadded p w = true ∨ fpcTwoHalves w = true)) ∨
      fpcPayload p w = 32) ∧
      (inSigned 4 (sext 32 w) = true → fpcPayload p w ≤ 4) ∧
      (inSigned 8 (sext 32 w) = true → fpcPayload p w ≤ 8) ∧
      (inSigned 16 (sext 32 w) = true → fpcPayload p w ≤ 16) ∧
      (fpcZeroPadded p w = true → fpcPayload p w ≤ 16) ∧
      (fpcTwoHalves w = true → fpcPayload p w ≤ 16) ∧
      (fpcRepeatedByte w = true → fpcPayload p w ≤ 8) ∧ fpcPayload p w ≤ 32

/-- R173: with the default zero-run payload a line of n > 0 words costs at least 3 and at most 35 * n bits. -/
def Obligations.FpcCostBounds : Prop :=
  ∀ (p : Params) (line : Line), p.fpcZrunPayload = 0 → 4 ≤ line.length →
    3 ≤ fpcBits p line ∧ fpcBits p line ≤ 35 * (line.length / 4)

/-- R159 (a), (b): a line of zeros costs 12 bits with state 0, and a line of one repeated non-zero 8-byte word 68 bits
with state 1, whatever the word and the length. -/
def Obligations.BdiZeroAndRepeatedLines : Prop :=
  ∀ (p : Params) (w : Line) (k : Nat), w.length = 8 → 0 < k →
    (w = List.replicate 8 0 →
      bdiBits p (List.replicate k w).flatten = 12 ∧ (bdiSelect p (List.replicate k w).flatten).1 = 0) ∧
    (w ≠ List.replicate 8 0 →
      bdiBits p (List.replicate k w).flatten = 68 ∧ (bdiSelect p (List.replicate k w).flatten).1 = 1)

/-- R150 to R156, R159 (e): the selection on a line of whole 8-byte words. A line that is neither zero nor a repeat gets the
cost of a configuration if one is below the raw size: the least cost, of the earliest configuration that has it, with
state 2 + q; else the raw size with state 8. So BDI costs at most 4 bits over the raw size. A configuration costs, with the
default BDI_MASK_BITS and BDI_DELTA_FOR_BASE_WORD (D21, D23; log 15): one bit a word; D bytes for each immediate word;
and for the r = n - k others the base whole and D bytes for each other one if every distance from the base fits, else B
bytes each. -/
def Obligations.BdiNeverExceedsRawByMoreThanFour : Prop :=
  bdiConfigs = [(8, 1), (8, 2), (8, 4), (4, 1), (4, 2), (2, 1)] ∧
  (∀ (p : Params) (line : Line), line ≠ [] → line.length % 8 = 0 →
    (bdiAllZero line = true ↔ ∀ b ∈ line, b = 0) ∧
    (bdiRepeated line = true ↔ ∀ j < line.length / 8, memReadLE line (8 * j) 8 = memReadLE line 0 8) ∧
    bdiBits p line = 4 + (bdiSelect p line).2 ∧ bdiBits p line ≤ 4 + 8 * line.length ∧
    (bdiAllZero line = false → bdiRepeated line = false →
      ((∀ c ∈ bdiConfigs, 8 * line.length ≤ configCost p line c.1 c.2) →
        bdiSelect p line = (8, 8 * line.length)) ∧
      ((∃ c ∈ bdiConfigs, configCost p line c.1 c.2 < 8 * line.length) →
        ∃ q b d : Nat, bdiConfigs[q]? = some (b, d) ∧ configCost p line b d < 8 * line.length ∧
          bdiSelect p line = (BitVec.ofNat 4 (2 + q), configCost p line b d) ∧
          (∀ c ∈ bdiConfigs, configCost p line b d ≤ configCost p line c.1 c.2) ∧
          ∀ j < q, ∀ c, bdiConfigs[j]? = some c → configCost p line b d < configCost p line c.1 c.2))) ∧
  ∀ (p : Params) (line : Line) (b d n k : Nat), p.bdiMaskBits = [] → p.bdiDeltaForBaseWord = false →
    n = line.length / b → k = (bdiWords line b).countP (fun v => fits v d) →
    ((∀ v ∈ bdiWords line b, fits v d = true) → configCost p line b d = n + 8 * (n * d)) ∧
    ∀ (before : List Int) (base : Int) (after : List Int), bdiWords line b = before ++ base :: after →
      (∀ v ∈ before, fits v d = true) → fits base d = false →
      ((∀ v ∈ after, fits v d = false → fits (wrappedDistance v base) d = true) →
        configCost p line b d = n + 8 * (k * d + (b + (n - k - 1) * d))) ∧
      ((∃ v ∈ after, fits v d = false ∧ fits (wrappedDistance v base) d = false) →
        configCost p line b d = n + 8 * (k * d + (n - k) * b))

/-- R155, R157: the range test is that of a D-byte signed number; sig is the least width whose range holds a 64-bit value,
and the test agrees with it. The distance is the exact one modulo 2^64 and in the range of 64 bits, so the exact one for
words of at most 4 bytes, and wraps for longer ones. -/
def Obligations.BdiRangeTestAndDistance : Prop :=
  (∀ (v : Int) (d : Nat), fits v d = true ↔ -(2 ^ (8 * d - 1) : Int) ≤ v ∧ v ≤ 2 ^ (8 * d - 1) - 1) ∧
    (∀ v : Int, -(2 ^ 63) ≤ v → v < 2 ^ 63 →
      (1 ≤ reduceSign v ∧ -(2 ^ (reduceSign v - 1) : Int) ≤ v ∧ v ≤ 2 ^ (reduceSign v - 1) - 1) ∧
      (∀ w, 1 ≤ w → -(2 ^ (w - 1) : Int) ≤ v → v ≤ 2 ^ (w - 1) - 1 → reduceSign v ≤ w) ∧
      ∀ d, 1 ≤ d → d ≤ 8 → (fits v d = true ↔ reduceSign v ≤ 8 * d)) ∧
    (∀ v base : Int, (wrappedDistance v base - (v - base)) % 2 ^ 64 = 0 ∧ -(2 ^ 63) ≤ wrappedDistance v base ∧
      wrappedDistance v base < 2 ^ 63) ∧
    (∀ v base : Int, -(2 ^ 31) ≤ v → v < 2 ^ 31 → -(2 ^ 31) ≤ base → base < 2 ^ 31 →
      wrappedDistance v base = v - base) ∧
    wrappedDistance (-(2 ^ 63)) (2 ^ 63 - 1) = 1

/-- R193 (b): a line of n > 0 equal words costs its first word and one run of 33 zero planes. -/
def Obligations.BpcOfEqualWords : Prop :=
  ∀ (p : Params) (w : Line) (k : Nat), w.length = 4 → 0 < k →
    bpcBits p (List.replicate k w).flatten =
      firstWordCost p (sext 32 (memReadLE w 0 4)) + zrlCost p 33

/-- R186 to R189, R191 to R193 (h): the bits of a line are those of its first word and of its 33 columns: a plane with a
non-zero DBX costs its category (5, 5, 10, 10 or 32), a maximal run of zero planes its entry of the run table. The first
word costs 3, 7, 11, 19 or 33 by its range, with the default BPC_FIRSTWORD_ALWAYS_ZERO and BPC_LOWER_BOUND. With the
default run table, 3 for one plane and 7 for more (log 16), no line costs more than 33 + 33 * 32 = 1089 bits. -/
def Obligations.BpcWorstCase : Prop :=
  (∀ (p : Params) (line : Line),
    (∀ c ≤ 32, deltaPlane (bpcDeltas (signedWords 4 line)) c = dbpPlane line c ∧
      xorPlane (bpcDeltas (signedWords 4 line)) c = dbxPlane line c) ∧
    (4 ≤ line.length →
      bpcBits p line = firstWordCost p (bpcRow line 0) + ((List.range 33).map (columnBits p line)).sum)) ∧
  firstWordClasses ∧ planeCategories ∧
  ∀ p : Params, p.bpcZrlCost = [] →
    zrlCost p 1 = 3 ∧ (∀ run, 2 ≤ run → run ≤ 33 → zrlCost p run = 7) ∧ ∀ line : Line, bpcBits p line ≤ 1089

/-- R112, R113, R124, R127: a sub-block costs the AllZero width if such a module is configured and every byte is 0; else
32 and the AllWordSame width if such a module is configured and every 4-byte group equals the first; else what the winner
costs, or 256 and the index -1 width if that is not below 256. The candidates are the matrices and widths of the general
modules, in the order of the modules' indices. As soon as there is one there is a winner: it has the most leading zero
rows, and the lowest module index among equals. The count is that of the rows before the first one with a set bit. -/
def Obligations.MpcWinnerHasMostLeadingZeroRows : Prop :=
  (∀ cs : List (List (List Bool) × Nat), cs ≠ [] → ∃ c, mpcWinner cs = some c) ∧
    (∀ (cs : List (List (List Bool) × Nat)) (c : List (List Bool) × Nat), mpcWinner cs = some c →
      ∃ before after, cs = before ++ c :: after ∧
        (∀ d ∈ before, leadingZeroRows d.1 < leadingZeroRows c.1) ∧
        ∀ d ∈ after, leadingZeroRows d.1 ≤ leadingZeroRows c.1) ∧
    (∀ rows : List (List Bool),
      (rows.take (leadingZeroRows rows)).all allZeroBits = true ∧
        ∀ r, rows[leadingZeroRows rows]? = some r → allZeroBits r = false) ∧
    (∀ (p : Params) (sb : Line) (c : List (List Bool) × Nat), c ∈ mpcCandidates p sb ↔
      ∃ m ∈ p.mpc.modules, ∃ g, m.kind = .predComp g ∧ c = (mpcMatrix p g sb, widthOf p.mpc m.encW)) ∧
    (∀ (p : Params) (sb : Line), ∃ idx : List Nat,
      idx.Pairwise (· < ·) ∧ idx.length = (mpcCandidates p sb).length ∧
      (∀ i, i ∈ idx ↔ ∃ m g, p.mpc.modules[i]? = some m ∧ m.kind = .predComp g) ∧
      ∀ (j i : Nat) (m : MpcModule) (g : PredComp), idx[j]? = some i → p.mpc.modules[i]? = some m →
        m.kind = .predComp g → (mpcCandidates p sb)[j]? = some (mpcMatrix p g sb, widthOf p.mpc m.encW)) ∧
    (∀ (p : Params) (sb : Line) (c : List (List Bool) × Nat), mpcWinner (mpcCandidates p sb) = some c →
      ∃ (i : Nat) (m : MpcModule) (g : PredComp), p.mpc.modules[i]? = some m ∧ m.kind = .predComp g ∧
        c = (mpcMatrix p g sb, widthOf p.mpc m.encW) ∧
        ∀ (i' : Nat) (m' : MpcModule) (g' : PredComp), p.mpc.modules[i']? = some m' → m'.kind = .predComp g' →
          leadingZeroRows (mpcMatrix p g' sb) ≤ leadingZeroRows (mpcMatrix p g sb) ∧
          (i' < i → leadingZeroRows (mpcMatrix p g' sb) < leadingZeroRows (mpcMatrix p g sb))) ∧
    ∀ (p : Params) (sb : Line), sb.length = 32 →
      (∀ az, p.mpc.modules.find? (fun m => m.kind == .allZero) = some az → (∀ b ∈ sb, b = 0) →
        subBlockCost p sb = widthOf p.mpc az.encW) ∧
      ((∀ m ∈ p.mpc.modules, m.kind ≠ .allZero) ∨ (∃ b ∈ sb, b ≠ 0) →
        (∀ aws, p.mpc.modules.find? (fun m => m.kind == .allWordSame) = some aws →
          (∀ j < 8, ∀ k < 4, sb.getD (4 * j + k) 0 = sb.getD k 0) →
            subBlockCost p sb = 32 + widthOf p.mpc aws.encW) ∧
        ((∀ m ∈ p.mpc.modules, m.kind ≠ .allWordSame) ∨
            (∃ j < 8, ∃ k < 4, sb.getD (4 * j + k) 0 ≠ sb.getD k 0) →
          ∀ rows w, mpcWinner (mpcCandidates p sb) = some (rows, w) →
            subBlockCost p sb =
              if 256 ≤ rowBits rows + w then 256 + widthOf p.mpc p.mpc.encWUnc else rowBits rows + w))

/-- R115 to R119, R121 to R123, R125, R126, R130 (a), (b): from a sub-block to the bits of its matrix. Each predictor's
prediction; the residues modulo 256, their bit planes, the XOR stage and the scan; the cost of a row with a set bit (7, 8,
12, 12 or 17 by its category) and of a maximal run of zero rows (4 for one, 7 for more). So a matrix of n rows costs at most
17 * n bits, and a zero matrix of two or more rows costs 7. The prediction of a WeightBase module is a free value
(log 7). -/
def Obligations.MpcRowBitsBounds : Prop :=
  predictorsPredict ∧ matrixIsScanned ∧ rowCategories ∧ rowBitsByRuns ∧
  (∀ rows : List (List Bool), rowBits rows ≤ 17 * rows.length) ∧
    ∀ rows : List (List Bool), 2 ≤ rows.length → rows.all allZeroBits = true → rowBits rows = 7

/-- R111: a line of one sub-block costs what the sub-block costs, and the sub-blocks are independent: a line made of two
lines of whole sub-blocks costs their sum. -/
def Obligations.MpcSubBlocksAreIndependent : Prop :=
  (∀ (p : Params) (sb : Line), sb.length = 32 → mpcBits p sb = subBlockCost p sb) ∧
    ∀ (p : Params) (a b : Line), a.length % 32 = 0 → mpcBits p (a ++ b) = mpcBits p a + mpcBits p b

/-- R207, R208, R209, with the default match and insert policies. A word with three leading zero bytes costs 2 or 12 by its
last byte. Else, if no entry has its first two bytes, it costs 34 and is put at the tail. Else the first entry that has
them decides: 6 if all four bytes are the word's, 16 if the third is, 24 if not. The dictionary is left as it was in every
case but the miss. -/
def Obligations.CpackInsertsExactlyOnAMiss : Prop :=
  ∀ (p : Params) (d : Dict) (b : Quad), p.cpackMatch = .firstHit → p.cpackInsertOnPartial = false →
    (b.b0 = 0 ∧ b.b1 = 0 ∧ b.b2 = 0 → cpackWord p d b = (if b.b3 = 0 then 2 else 12, d)) ∧
    (¬(b.b0 = 0 ∧ b.b1 = 0 ∧ b.b2 = 0) →
      ((∀ e ∈ d, ¬(e.b0 = b.b0 ∧ e.b1 = b.b1)) → cpackWord p d b = (34, d.tail ++ [b])) ∧
      ∀ before e after, d = before ++ e :: after → (∀ x ∈ before, ¬(x.b0 = b.b0 ∧ x.b1 = b.b1)) →
        e.b0 = b.b0 → e.b1 = b.b1 →
          cpackWord p d b = (if e.b2 = b.b2 then (if e.b3 = b.b3 then 6 else 16) else 24, d)) ∧
    ((cpackWord p d b).1 = 34 ↔
      ¬(b.b0 = 0 ∧ b.b1 = 0 ∧ b.b2 = 0) ∧ ∀ e ∈ d, ¬(e.b0 = b.b0 ∧ e.b1 = b.b1))

/-- R209, R210: after sixteen or more insertions into a dictionary of sixteen entries it holds the last sixteen inserted
words; so the first of seventeen is gone. -/
def Obligations.CpackDictionaryIsAFifo : Prop :=
  ∀ (d ws : List Quad), d.length = 16 → 16 ≤ ws.length →
    ws.foldl dictInsert d = ws.drop (ws.length - 16)

/-- R220: sampling a list of symbols adds to each symbol's count the number of times it occurs, and keeps the map's
canonical form. -/
def Obligations.SamplingCountsEveryWord : Prop :=
  ∀ (m : SymMap) (syms : List Word32) (x : Word32), symsRise m = true →
    symsRise (countSyms m syms) = true ∧
      ((countSyms m syms).lookup x).getD 0 = (m.lookup x).getD 0 + syms.count x

/-- R226: pruning keeps at most 1024 symbols with their counts, all of them if there are no more, and no dropped symbol
is more frequent than a kept one, whatever the tie-break; with the default tie-break a dropped symbol that is as frequent
as a kept one is the greater symbol. -/
def Obligations.PruningKeepsTheMostFrequent : Prop :=
  ∀ (prefs : List Word32) (m : SymMap), symsRise m = true →
    (prune prefs m).length = min 1024 m.length ∧ (prune prefs m).Sublist m ∧
      ∀ a ∈ prune prefs m, ∀ b ∈ m, b ∉ prune prefs m →
        b.2 ≤ a.2 ∧ (prefs = [] → b.2 = a.2 → a.1.toNat < b.1.toNat)

/-- R231: for two or more symbols and every heap tie-break the code lengths satisfy the Kraft equality, with the default
shortest length. -/
def Obligations.HuffmanLengthsSatisfyKraft : Prop :=
  ∀ (p : Params) (m : SymMap), p.sc2MinCodeLen = 0 → symsRise m = true → 2 ≤ m.length →
    ((huffmanLengths p m).map fun e => (1 / 2 : ℚ) ^ e.2).sum = 1

/-- R227 to R229: every symbol gets a length and no other does; with one symbol it is 0, with m >= 2 symbols every length
is between 1 and m - 1, with the default shortest length. With the default order of the heap the lengths are the depths in
the tree that m - 1 rounds build from the leaves: the symbols in rising order with serial numbers from 0, and in each round
the parent of the two nodes of least key, with serial numbers from m. -/
def Obligations.HuffmanLengthBounds : Prop :=
  ∀ (p : Params) (m : SymMap), p.sc2MinCodeLen = 0 → symsRise m = true →
    (huffmanLengths p m).map Prod.fst = m.map Prod.fst ∧
      (m.length = 1 → ∀ e ∈ huffmanLengths p m, e.2 = 0) ∧
      (2 ≤ m.length → ∀ e ∈ huffmanLengths p m, 1 ≤ e.2 ∧ e.2 ≤ m.length - 1) ∧
      (1 ≤ m.length → p.sc2HeapOrder = [] →
        ∃ root : HuffNode,
          mergesTo (m.length - 1) m.length
            (m.zipIdx.map fun e => { f := e.1.2, seq := e.2, tree := .leaf e.1.1 }) root ∧
          ∀ e ∈ huffmanLengths p m, depthOf e.1 root.tree = some e.2)

/-! ### The queues -/

/-- R241, R242: DQ.PUSH writes the flit at `wr` and advances it; DQ.POP advances `rd` and returns the transaction of a
slot with a tail flag, else nothing; the slot itself is left unless DQ_POP_CLEARS. Nothing else changes. -/
def Obligations.DqPushAndPopComplete : Prop :=
  ∀ s : State, runs .dq s →
    (∀ head tail hasTxn : Bool,
      exec (.dqPush head tail hasTxn) s = .next
        { s with
          dq :=
            { rd := s.dq.rd
              wr := (s.dq.wr + 1) % (s.cfg.dq.size + s.cfg.dq.latency)
              slots := s.dq.slots.set s.dq.wr
                { txn := if hasTxn then some s.opTxn else none, head := head, tail := tail } } }) ∧
    ∃ q : Dq, ∃ x : Option Txn,
      exec .dqPop s = .next { s with dq := q, resTxn := x, resValid := x.isSome } ∧
      q.rd = (s.dq.rd + 1) % (s.cfg.dq.size + s.cfg.dq.latency) ∧ q.wr = s.dq.wr ∧
      q.slots = (if s.cfg.dq.popClears then s.dq.slots.set s.dq.rd Slot.empty else s.dq.slots) ∧
      x = (if (s.dq.slots.getD s.dq.rd Slot.empty).tail then (s.dq.slots.getD s.dq.rd Slot.empty).txn else none)

/-- R243: with offset d = (wr - rd) mod cap at a push and fewer than cap further pushes, the (d + 1)-th pop after it reads
the pushed slot, however pushes and pops are interleaved. -/
def Obligations.DqLatencyLaw : Prop :=
  ∀ (p : DqParams) (q : Dq) (f : Slot) (uses : List (Option Slot)), dqOk p q →
    (uses.filter Option.isNone).length = dqOffset p q →
    (uses.filter Option.isSome).length < p.cap →
      dqHead (dqRun p uses (dqPush p q f)) = (if f.tail then f.txn else none)

/-- R70, R245: the offset grows by one per push and shrinks by one per pop, modulo cap, and no pointer leaves
0..cap-1. -/
def Obligations.DqOffsetCountsPushesAndPops : Prop :=
  ∀ (p : DqParams) (q : Dq) (uses : List (Option Slot)), dqOk p q →
    dqOk p (dqRun p uses q) ∧
      (dqOffset p (dqRun p uses q) + (uses.filter Option.isNone).length) % p.cap =
        (dqOffset p q + (uses.filter Option.isSome).length) % p.cap

/-- R252 to R255: the four verbs of the standalone Compressed Delay Queue: PUSH into a queue that is not full, and
F_CDQ_FULL (code 6) on a full one; TOP; POP, which does nothing on an empty queue; FULL. Nothing else changes. -/
def Obligations.CdqVerbsComplete : Prop :=
  ∀ s : State, runs .cdq s →
    (∀ size, s.cdq.count ≠ s.cfg.cdq.size + s.cfg.cdq.latency →
      exec (.cdqPush size) s = .next
        { s with
          cdq :=
            { rd := s.cdq.rd
              wr := (s.cdq.wr + 1) % (s.cfg.cdq.size + s.cfg.cdq.latency)
              count := s.cdq.count + 1
              slots := s.cdq.slots.set s.cdq.wr
                { txn := some s.opTxn, size := BitVec.ofNat 32 size, pushCycle := s.opNow } } }) ∧
    (∀ size, s.cdq.count = s.cfg.cdq.size + s.cfg.cdq.latency →
      exec (.cdqPush size) s = .next (afterFault 6 s)) ∧
    (let c := s.cdq.slots.getD s.cdq.rd CSlot.empty;
      (0 < s.cdq.count ∧ c.pushCycle.toNat + s.cfg.cdq.latency < s.opNow.toNat →
        exec .cdqTop s = .next { s with resTxn := c.txn, resValid := true, res := c.size }) ∧
      (¬(0 < s.cdq.count ∧ c.pushCycle.toNat + s.cfg.cdq.latency < s.opNow.toNat) →
        exec .cdqTop s = .next { s with resTxn := none, resValid := false, res := 0 })) ∧
    (0 < s.cdq.count →
      exec .cdqPop s = .next
        { s with
          cdq :=
            { rd := (s.cdq.rd + 1) % (s.cfg.cdq.size + s.cfg.cdq.latency)
              wr := s.cdq.wr
              count := s.cdq.count - 1
              slots := s.cdq.slots.set s.cdq.rd { txn := none, size := 0, pushCycle := 0 } } }) ∧
    (s.cdq.count = 0 → exec .cdqPop s = .next s) ∧
    exec .cdqFull s = .next
      { s with res := if s.cdq.count = s.cfg.cdq.size + s.cfg.cdq.latency then 1 else 0 }

/-- R254, R257 (b): the ring is a FIFO of entries: PUSH appends one, POP drops the first, TOP shows the first once its
delay has elapsed, and PUSH is refused exactly when cap entries are held. -/
def Obligations.CdqIsAFifoOfEntries : Prop :=
  ∀ (p : CdqParams) (q : Cdq), cdqOk p q →
    (∀ (t : Txn) (size : Word32) (now : Word64),
      (cdqPush p q t size now = .error .cdqFull ↔ (cdqEntries p q).length = p.cap) ∧
        ∀ q', cdqPush p q t size now = .ok q' → cdqOk p q' ∧
          cdqEntries p q' = cdqEntries p q ++ [{ txn := some t, size := size, pushCycle := now }]) ∧
    (cdqOk p (cdqAfterPop p q) ∧ cdqEntries p (cdqAfterPop p q) = (cdqEntries p q).tail) ∧
    ∀ now : Word64,
      cdqTop p q now =
        (cdqEntries p q).head?.filter fun c => decide (c.pushCycle.toNat + p.latency < now.toNat)

/-! ### The links -/

/-- R266, R291: PUSH of a recognised type to an existing destination into a ready queue with room appends the
transaction to that queue, on each of the three links, and changes nothing else. A compressed link picks the queue by
the type alone. -/
def Obligations.PushCompletesOnEveryLink : Prop :=
  ∀ (s : State) (k : Nat), s.opTxn.type.toNat ≤ 3 →
    (runs .lnk s → k < s.cfg.lnk.sources → s.opTxn.dst < s.cfg.lnk.dests →
      (queueAt (readyOf s.cfg.lnk s.lnk s.opTxn) k).length ≠ s.cfg.lnk.readyDepth →
        exec (.lnkPush k) s = .next { s with lnk := enqReady s.cfg.lnk s.lnk k s.opTxn }) ∧
    (runs .mldn s → k < s.cfg.dn.sources → s.opTxn.dst < s.cfg.dn.dests →
      (queueAt (readyOf s.cfg.dn s.dn s.opTxn) k).length ≠ s.cfg.dn.readyDepth →
        exec (.mldnPush k) s = .next { s with dn := enqReady s.cfg.dn s.dn k s.opTxn }) ∧
    (runs .mlup s → k < s.cfg.up.sources → s.opTxn.dst < s.cfg.up.dests →
      (queueAt (readyOf s.cfg.up s.up s.opTxn) k).length ≠ s.cfg.up.readyDepth →
        exec (.mlupPush k) s = .next { s with up := enqReady s.cfg.up s.up k s.opTxn }) ∧
    ∀ (lp : LinkParams) (l : Link) (t : Txn),
      (lp.kind = .plain → enqReady lp l k t = { l with ready := l.ready.set k (queueAt l.ready k ++ [t]) }) ∧
      (lp.kind = .compressed → (t.type = 1 ∨ t.type = 2) →
        enqReady lp l k t = { l with readyLong := l.readyLong.set k (queueAt l.readyLong k ++ [t]) }) ∧
      (lp.kind = .compressed → ¬(t.type = 1 ∨ t.type = 2) →
        enqReady lp l k t = { l with readyShort := l.readyShort.set k (queueAt l.readyShort k ++ [t]) })

/-- R267, R292: FULL of an existing source is 1 exactly when the source's ready queue (either of them on a compressed
link) holds READY_DEPTH, on each of the three links; nothing else changes. -/
def Obligations.FullTellsWhetherAReadyQueueIsFull : Prop :=
  ∀ (s : State) (k : Nat),
    (runs .lnk s → k < s.cfg.lnk.sources →
      exec (.lnkFull k) s = .next { s with res := if linkFull s.cfg.lnk s.lnk k then 1 else 0 }) ∧
    (runs .mldn s → k < s.cfg.dn.sources →
      exec (.mldnFull k) s = .next { s with res := if linkFull s.cfg.dn s.dn k then 1 else 0 }) ∧
    (runs .mlup s → k < s.cfg.up.sources →
      exec (.mlupFull k) s = .next { s with res := if linkFull s.cfg.up s.up k then 1 else 0 }) ∧
    ∀ (lp : LinkParams) (l : Link),
      (lp.kind = .plain → (linkFull lp l k = true ↔ (queueAt l.ready k).length = lp.readyDepth)) ∧
      (lp.kind = .compressed → (linkFull lp l k = true ↔
        (queueAt l.readyLong k).length = lp.readyDepth ∨ (queueAt l.readyShort k).length = lp.readyDepth))

/-- R276, R277, R278, R293, R331: EMPTY, TOP and POP of an existing destination act on its completed queue, on each of the
three links: EMPTY tells whether it is empty, TOP shows its head or none, POP drops the head or does nothing. Nothing
else changes. -/
def Obligations.EmptyTopAndPopActOnTheCompletedQueue : Prop :=
  ∀ (s : State) (d : Nat),
    (runs .lnk s → d < s.cfg.lnk.dests →
      exec (.lnkEmpty d) s = .next { s with res := if queueAt s.lnk.done d = [] then 1 else 0 } ∧
      exec (.lnkTop d) s = .next
        { s with resTxn := (queueAt s.lnk.done d).head?, resValid := (queueAt s.lnk.done d).head?.isSome } ∧
      exec (.lnkPop d) s = .next
        { s with lnk := { s.lnk with done := s.lnk.done.set d (queueAt s.lnk.done d).tail } }) ∧
    (runs .mldn s → d < s.cfg.dn.dests →
      exec (.mldnEmpty d) s = .next { s with res := if queueAt s.dn.done d = [] then 1 else 0 } ∧
      exec (.mldnTop d) s = .next
        { s with resTxn := (queueAt s.dn.done d).head?, resValid := (queueAt s.dn.done d).head?.isSome } ∧
      exec (.mldnPop d) s = .next
        { s with dn := { s.dn with done := s.dn.done.set d (queueAt s.dn.done d).tail } }) ∧
    (runs .mlup s → d < s.cfg.up.dests →
      exec (.mlupEmpty d) s = .next { s with res := if queueAt s.up.done d = [] then 1 else 0 } ∧
      exec (.mlupTop d) s = .next
        { s with resTxn := (queueAt s.up.done d).head?, resValid := (queueAt s.up.done d).head?.isSome } ∧
      exec (.mlupPop d) s = .next
        { s with up := { s.up with done := s.up.done.set d (queueAt s.up.done d).tail } })

/-- R270, R271, R272, R297, R306, R307, R42, R295: LNK.STEP with a budget n completes when no fault can be met (DONE_DEPTH
unbounded, BADTYPE_AT = push): n pops, the popped transactions delivered in order, then n pushes, and on a compressed link
the compression pass, the discard of the leftovers and one tick. What the pushes write is said by
PacketsAreConsecutiveFlits, with the packet that each kind of link takes in RoundRobinFindsTheFirstReadySource,
DownLinkPriority and UpLinkPriority. Only the link and, on a compressed link, the
engine change: that the standalone link uses the one shared engine is log 9, and that the compression inside a step
leaves RES as it was is log 18. -/
def Obligations.LnkStepCompletes : Prop :=
  ∀ (s : State) (n : Nat), runs .lnk s → dqOk s.cfg.lnk.dq s.lnk.dq →
    stepCannotFault s.cfg s.cfg.lnk s.lnk →
      ∃ (l : Link) (e : Engine),
        exec (.lnkStep n) s = .next { s with lnk := l, engine := e } ∧
        stepped s.cfg s.cfg.lnk n s.lnk l s.engine e

/-- R330, R332, R333, R336: MLDN.STEP and MLUP.STEP complete when no fault can be met: a step of the down link with
direction down and of the up link with direction up, whatever DIR its parameters carry (log 27), by the budget
floor(bandwidth + remainder), the fraction carried. Each touches only its own link and remainder and, if that link is
compressed, the engine; that the compression inside a step leaves RES as it was is log 18. -/
def Obligations.MemoryLinkStepsComplete : Prop :=
  ∀ s : State,
    (runs .mldn s → dqOk s.cfg.dn.dq s.dn.dq → stepCannotFault s.cfg s.cfg.dn s.dn →
      ∃ (l : Link) (e : Engine),
        exec .mldnStep s = .next
          { s with
            dn := l, engine := e
            remDn := (s.opBw % 2 ^ (16 + s.cfg.bwFrac) + s.remDn) % 2 ^ s.cfg.bwFrac } ∧
        stepped s.cfg { s.cfg.dn with dir := .down }
          ((s.opBw % 2 ^ (16 + s.cfg.bwFrac) + s.remDn) / 2 ^ s.cfg.bwFrac) s.dn l s.engine e) ∧
    (runs .mlup s → dqOk s.cfg.up.dq s.up.dq → stepCannotFault s.cfg s.cfg.up s.up →
      ∃ (l : Link) (e : Engine),
        exec .mlupStep s = .next
          { s with
            up := l, engine := e
            remUp := (s.opBw % 2 ^ (16 + s.cfg.bwFrac) + s.remUp) % 2 ^ s.cfg.bwFrac } ∧
        stepped s.cfg { s.cfg.up with dir := .up }
          ((s.opBw % 2 ^ (16 + s.cfg.bwFrac) + s.remUp) / 2 ^ s.cfg.bwFrac) s.up l s.engine e)

/-- R334: with bandwidths b_1 … b_k (in units of 2^-BW_FRAC) from remainder 0, the budgets sum to the floor of the sum and
the remainder is its fraction. -/
def Obligations.BandwidthLaw : Prop :=
  ∀ (p : Params) (bws : List Nat), (∀ b ∈ bws, b < 2 ^ (16 + p.bwFrac)) →
    (budgets p 0 bws).sum = bws.sum / 2 ^ p.bwFrac ∧ lastRemainder p 0 bws = bws.sum % 2 ^ p.bwFrac

/-- R268, R269, R270, R273, R304: the round-robin search answers the first source from the cursor on that has a transaction,
and none exactly when no source has one. Before each flit a plain link goes on with the packet in progress; without one it
takes the head of that source's ready queue, the cursor becomes the source, and the packet has the flits of H bits (short)
or H + 8 * len bits (long), none of them sent; without a ready source it takes nothing. The rest of the link is
unchanged. -/
def Obligations.RoundRobinFindsTheFirstReadySource : Prop :=
  (∀ (lp : LinkParams) (rr : Nat) (qs : List (List Txn)),
    (∀ s, nextSource lp rr qs = some s → firstReady lp rr qs s) ∧
      (nextSource lp rr qs = none ↔ noneReady lp qs)) ∧
  ∀ (lp : LinkParams) (l : Link), lp.kind = .plain → lp.badTypeAt = .push →
    (∀ c, l.cur = some c → withPacket lp l = .ok l) ∧
    (l.cur = none →
      (∀ s t rest, firstReady lp l.rr l.ready s → queueAt l.ready s = t :: rest →
        withPacket lp l = .ok
          { l with
            ready := l.ready.set s rest, rr := s
            cur := some
              { txn := t
                left :=
                  ((if t.type = 1 ∨ t.type = 2 then lp.headBits + 8 * t.len else lp.headBits) + lp.flitBits - 1)
                    / lp.flitBits
                first := true } }) ∧
      (noneReady lp l.ready → withPacket lp l = .ok l))

/-- R272, R274, R275: the push phase of either kind of link. With the packet that is in progress, or is taken (withPacket),
it pushes flits of that packet, as many as the budget and the packet allow: consecutive, of its transaction, head on its
first, tail on its last; it goes on with the rest of the budget, with no packet in progress once the last flit is pushed. With
no packet to be had the rest of the budget is empty flits. The rest of the link is unchanged, and a fault in the choice of a
packet is the phase's. -/
def Obligations.PacketsAreConsecutiveFlits : Prop :=
  ∀ (lp : LinkParams) (l : Link),
    pushPhase lp 0 l = .ok l ∧
    (∀ (c : Packet) (n : Nat), l.cur = some c → 0 < n → n ≤ c.left →
      pushPhase lp n l = .ok
        { l with
          dq := dqRun lp.dq ((packetFlitList c n).map some) l.dq
          cur := if c.left = n then none else some { txn := c.txn, left := c.left - n, first := false } }) ∧
    (∀ (m : Link) (c : Packet) (n k : Nat), withPacket lp l = .ok m → m.cur = some c → 0 < k → k ≤ c.left →
      pushPhase lp (k + n) l = pushPhase lp n
        { m with
          dq := dqRun lp.dq ((packetFlitList c k).map some) m.dq
          cur := if c.left = k then none else some { txn := c.txn, left := c.left - k, first := false } }) ∧
    (∀ (m : Link) (n : Nat), withPacket lp l = .ok m → m.cur = none → 0 < n →
      pushPhase lp n l = .ok
        { m with dq := dqRun lp.dq (List.replicate n (some { txn := none, head := false, tail := false })) m.dq }) ∧
    ∀ (f : FaultCode) (n : Nat), withPacket lp l = .error f → 0 < n → pushPhase lp n l = .error f

/-- R300, R301, R309: for a packet of need >= 1 bits and a pad below W, at least one bit is charged and at most the pad is
saved, the packet has at least one flit, the flits carry exactly the charged bits and the new pad, and the new pad is
below W. -/
def Obligations.LeftoverArithmetic : Prop :=
  ∀ (lp : LinkParams) (need pad : Nat), 1 ≤ lp.flitBits → 1 ≤ need → pad < lp.flitBits →
    1 ≤ paddedFlits lp need pad ∧ paddedRest lp need pad < lp.flitBits ∧
      ∃ use, use ≤ pad ∧ use ≤ need - 1 ∧ (lp.leftoverEnable = true → use = min pad (need - 1)) ∧
        (lp.leftoverEnable = false → use = 0) ∧
        paddedFlits lp need pad * lp.flitBits = (need - use) + paddedRest lp need pad

/-- R297, R300, R301, R302, R304, with the default parameters: before each flit a compressed down link goes on with the
packet in progress, and without one takes the first ready short if no leftover is pending; else a visible long; else
nothing, so that with a pending leftover a ready short is skipped. The packet taken has the flits of H bits (short) or
H + size bits (long) less what the pad of its own kind saves, and its kind's counter becomes its own pad; the other
counter is untouched. -/
def Obligations.DownLinkPriority : Prop :=
  ∀ (lp : LinkParams) (l : Link), lp.kind = .compressed → lp.dir = .down → lp.badTypeAt = .push →
    lp.dnShortFallback = false →
    (∀ c, l.cur = some c → withPacket lp l = .ok l) ∧
    (l.cur = none →
      (∀ s t rest, l.leftover = 0 → firstReady lp l.rr l.readyShort s → queueAt l.readyShort s = t :: rest →
        withPacket lp l = .ok
          { l with
            readyShort := l.readyShort.set s rest, rr := s
            leftoverNodata := paddedRest lp lp.headBits l.leftoverNodata
            cur := some { txn := t, left := paddedFlits lp lp.headBits l.leftoverNodata, first := true } }) ∧
      (∀ c t, (l.leftover ≠ 0 ∨ noneReady lp l.readyShort) → cdqTop lp.cdq l.cdq l.cycle = some c → c.txn = some t →
        withPacket lp l = .ok
          { l with
            cdq := cdqAfterPop lp.cdq l.cdq
            leftover := paddedRest lp (lp.headBits + c.size.toNat) l.leftover
            cur := some
              { txn := t, left := paddedFlits lp (lp.headBits + c.size.toNat) l.leftover, first := true } }) ∧
      ((l.leftover ≠ 0 ∨ noneReady lp l.readyShort) → cdqTop lp.cdq l.cdq l.cycle = none →
        withPacket lp l = .ok l))

/-- R297, R300, R301, R303, R304: before each flit a compressed up link goes on with the packet in progress, and without one
takes a visible long; else the first ready short; else nothing. The leftover is not tested. The packet taken has the
flits of H + size bits (long) or H bits (short) less what the pad of its own kind saves, and its kind's counter becomes
its own pad; the other counter is untouched. -/
def Obligations.UpLinkPriority : Prop :=
  ∀ (lp : LinkParams) (l : Link), lp.kind = .compressed → lp.dir = .up → lp.badTypeAt = .push →
    (∀ c, l.cur = some c → withPacket lp l = .ok l) ∧
    (l.cur = none →
      (∀ c t, cdqTop lp.cdq l.cdq l.cycle = some c → c.txn = some t →
        withPacket lp l = .ok
          { l with
            cdq := cdqAfterPop lp.cdq l.cdq
            leftover := paddedRest lp (lp.headBits + c.size.toNat) l.leftover
            cur := some
              { txn := t, left := paddedFlits lp (lp.headBits + c.size.toNat) l.leftover, first := true } }) ∧
      (∀ s t rest, cdqTop lp.cdq l.cdq l.cycle = none → firstReady lp l.rr l.readyShort s →
        queueAt l.readyShort s = t :: rest →
          withPacket lp l = .ok
            { l with
              readyShort := l.readyShort.set s rest, rr := s
              leftoverNodata := paddedRest lp lp.headBits l.leftoverNodata
              cur := some { txn := t, left := paddedFlits lp lp.headBits l.leftoverNodata, first := true } }) ∧
      (cdqTop lp.cdq l.cdq l.cycle = none → noneReady lp l.readyShort → withPacket lp l = .ok l))

/-- R295, R305, with the default parameters: the compression pass. At a source's turn, with a long transaction waiting and
room in the compressed queue, the engine compresses its payload, and the transaction, the size (modulo 2^32, log 19) and
the current cycle are pushed, or the step raises F_BADLEN on a length other than 32 or 128; without either nothing
happens. A sweep is the turns of its sources one after the other, one turn each; the pass is one sweep over the sources
from `crr`, which then moves past the last source served. -/
def Obligations.CompressionPassTakesOnePerSource : Prop :=
  ∀ (p : Params) (lp : LinkParams), lp.compPerSrcPerStep = 1 → lp.clampRaw = false →
    (∀ (x : PassState) (s : Nat) (t : Txn) (rest : List Txn) (bits : Nat) (e : Engine),
      queueAt x.link.readyLong s = t :: rest → x.link.cdq.count < lp.cdq.cap →
      (t.len = 32 ∨ t.len = 128) → engineCompress p x.engine t.payload t.len = .ok (bits, e) →
      ∃ q, cdqPush lp.cdq x.link.cdq t (BitVec.ofNat 32 bits) x.link.cycle = .ok q ∧
        compressSweep p lp [s] x = .ok
          { link := { x.link with readyLong := x.link.readyLong.set s rest, cdq := q }, engine := e, last := some s }) ∧
    (∀ (x : PassState) (s : Nat), (queueAt x.link.readyLong s = [] ∨ x.link.cdq.count = lp.cdq.cap) →
      compressSweep p lp [s] x = .ok x) ∧
    (∀ (x : PassState) (s : Nat) (t : Txn) (rest : List Txn),
      queueAt x.link.readyLong s = t :: rest → x.link.cdq.count < lp.cdq.cap → t.len ≠ 32 → t.len ≠ 128 →
      compressSweep p lp [s] x = .error .badLen) ∧
    (∀ x : PassState, compressSweep p lp [] x = .ok x) ∧
    (∀ (x : PassState) (s : Nat) (ss : List Nat),
      compressSweep p lp (s :: ss) x = (compressSweep p lp [s] x).bind (compressSweep p lp ss)) ∧
    ∀ (l l' : Link) (e e' : Engine), compressionPass p lp l e = .ok (l', e') →
      ∃ x : PassState,
        compressSweep p lp ((List.range lp.sources).map fun k => (l.crr + k) % lp.sources)
          { link := l, engine := e, last := none } = .ok x ∧ e' = x.engine ∧
        l' = (match x.last with
          | none => x.link
          | some s => { x.link with crr := (s + 1) % lp.sources })

/-- R306, R307: every completed step of a compressed link, whatever its budget, ends one cycle later and, with no packet in
progress, with both leftover counters at 0. -/
def Obligations.CompressedStepTicksAndDiscards : Prop :=
  ∀ (p : Params) (lp : LinkParams) (l l' : Link) (e e' : Engine) (n : Nat), lp.kind = .compressed →
    linkStep p lp l e n = .ok (l', e') →
      l'.cycle = l.cycle + 1 ∧ (l'.cur = none → l'.leftover = 0 ∧ l'.leftoverNodata = 0)

/-- R281 (a), R338 (a): a step of budget 0 changes nothing on a plain link; on a compressed link it pops and pushes nothing
and still runs the compression pass (its tick and its discard are R307 and R306). -/
def Obligations.StepOfBudgetZero : Prop :=
  ∀ (p : Params) (lp : LinkParams) (l : Link) (e : Engine),
    (lp.kind = .plain → linkStep p lp l e 0 = .ok (l, e)) ∧
    (lp.kind = .compressed → ∀ l' e', linkStep p lp l e 0 = .ok (l', e') →
      l'.dq = l.dq ∧ l'.done = l.done ∧ l'.cur = l.cur ∧
        ∃ l'', compressionPass p lp l e = .ok (l'', e') ∧ l'.cdq = l''.cdq ∧ l'.readyLong = l''.readyLong ∧
          l'.crr = l''.crr)

/-- R297, R305, R358: the faults of a link's step. It raises F_DONE_OVERFLOW exactly when one of its n pops returns a
transaction whose destination's completed queue holds a bounded DONE_DEPTH after the deliveries before it. Any other fault
is F_BADLEN from the compression pass of a compressed link, F_BADTYPE if BADTYPE_AT = schedule (log 12), or F_CONFIG if
ALG names no encoder, which no run from reset reaches (log 11). On each of the three links the step's fault is the
command's, and nothing else changes. -/
def Obligations.FaultsOfLinkSteps : Prop :=
  (∀ (p : Params) (lp : LinkParams) (l : Link) (e : Engine) (n : Nat),
    (linkStep p lp l e n = .error .doneOverflow ↔
      ∃ d before t after, lp.doneDepth = some d ∧ poppedTxns lp.dq n l.dq = before ++ t :: after ∧
        (queueAt (delivered l.done before) t.dst).length = d) ∧
    ∀ f : FaultCode, linkStep p lp l e n = .error f →
      f = .doneOverflow ∨ (f = .badLen ∧ lp.kind = .compressed) ∨
        (f = .badType ∧ lp.badTypeAt = .schedule) ∨ (f = .config ∧ p.alg = none)) ∧
    ∀ (s : State) (f : FaultCode),
      (∀ n, runs .lnk s → linkStep s.cfg s.cfg.lnk s.lnk s.engine n = .error f →
        exec (.lnkStep n) s = .next (afterFault f.code s)) ∧
      (runs .mldn s →
        linkStep s.cfg s.cfg.dnLink s.dn s.engine (bwBudget s.cfg s.opBw s.remDn) = .error f →
          exec .mldnStep s = .next (afterFault f.code s)) ∧
      (runs .mlup s →
        linkStep s.cfg s.cfg.upLink s.up s.engine (bwBudget s.cfg s.opBw s.remUp) = .error f →
          exec .mlupStep s = .next (afterFault f.code s))

/-! ### The whole machine -/

/-- R48, R49, R336: every piece of state is written only by its own unit's commands (the engine also by the three links'),
apart from SYS.RESET. -/
def Obligations.EachUnitWritesOnlyItsOwnState : Prop :=
  ∀ (i : Instr) (s t : State), i ≠ .sysReset → exec i s = .next t →
    (unitOf i ≠ .mpc → t.mpcTot = s.mpcTot) ∧
      (unitOf i ≠ .bdi → t.bdiTot = s.bdiTot ∧ t.bdiState = s.bdiState) ∧
      (unitOf i ≠ .fpc → t.fpcTot = s.fpcTot) ∧ (unitOf i ≠ .bpc → t.bpcTot = s.bpcTot) ∧
      (unitOf i ≠ .cpack → t.cpackTot = s.cpackTot ∧ t.cpackDict = s.cpackDict) ∧
      (unitOf i ≠ .sc2 → t.sc2Tot = s.sc2Tot ∧ t.sc2 = s.sc2) ∧
      (unitOf i ∉ [.eng, .lnk, .mldn, .mlup] → t.engine = s.engine) ∧
      (unitOf i ≠ .dq → t.dq = s.dq) ∧ (unitOf i ≠ .cdq → t.cdq = s.cdq) ∧
      (unitOf i ≠ .lnk → t.lnk = s.lnk) ∧
      (unitOf i ≠ .mldn → t.dn = s.dn ∧ t.remDn = s.remDn) ∧
      (unitOf i ≠ .mlup → t.up = s.up ∧ t.remUp = s.remUp) ∧
      t.cmd = s.cmd ∧ t.opTxn = s.opTxn ∧ t.opLine = s.opLine ∧ t.opBw = s.opBw ∧ t.opNow = s.opNow ∧
      t.inbox = s.inbox

/-- Every step keeps a well-formed state well-formed (State.wf of Sys2Proof/Safety.lean: the ranges and shapes of
spec/10_state.md, the ring offset of R245, the counters of R309, every queued transaction bound for an existing
destination, the SC2 maps in canonical form, RES_VALID telling whether RES_TXN is a transaction, at most 128 bytes on
OP_LINE). -/
def Obligations.EveryStepKeepsTheStateWellFormed : Prop :=
  ∀ s t : State, s.wf → step s = .next t → t.wf

/-- Every instance is well-formed after reset, whatever its parameters; the one of State.reset (log 2) among them. -/
def Obligations.ResetIsWellFormed : Prop :=
  State.reset.wf ∧ ∀ p : Params, (State.resetFor p).wf
end

