-- ==== Sys2Proof/Laws/Encoders.lean ====
section
/-! SUPPORT. What the encoders' shared operations do: SC2's maps keep their canonical form (log 20), sorting permutes,
the dictionary keeps its sixteen entries. -/

namespace Sys2Proof.Machine

/-! ### Symbol maps -/

theorem symsRise_cons {e : Word32 × Nat} {m : SymMap} :
    symsRise (e :: m) = true ↔ (∀ e' ∈ m, e.1.toNat < e'.1.toNat) ∧ symsRise m = true := by
  simp [symsRise]

/-- The symbols of a map after one count: the old ones and the one counted. -/
theorem countSym_keys {sym : Word32} {m : SymMap} {e : Word32 × Nat} (h : e ∈ countSym sym m) :
    e.1 = sym ∨ ∃ e' ∈ m, e'.1 = e.1 := by
  induction m with
  | nil => simp [countSym] at h; exact .inl (by rw [h])
  | cons a m ih =>
    simp only [countSym] at h
    split at h
    · simp only [List.mem_cons] at h
      rcases h with rfl | h
      · exact .inl rfl
      · exact .inr ⟨e, by simpa using h, rfl⟩
    · split at h
      · simp only [List.mem_cons] at h
        rcases h with rfl | h
        · exact .inr ⟨a, by simp, rfl⟩
        · exact .inr ⟨e, by simp [h], rfl⟩
      · simp only [List.mem_cons] at h
        rcases h with rfl | h
        · exact .inr ⟨e, by simp, rfl⟩
        · rcases ih h with h' | ⟨e', h1, h2⟩
          · exact .inl h'
          · exact .inr ⟨e', by simp [h1], h2⟩

/-- One count keeps a map's canonical form. -/
theorem countSym_rises {m : SymMap} (sym : Word32) (h : symsRise m = true) : symsRise (countSym sym m) = true := by
  induction m with
  | nil => rfl
  | cons a m ih =>
    rw [symsRise_cons] at h
    simp only [countSym]
    split
    · rename_i hlt
      rw [symsRise_cons, symsRise_cons]
      refine ⟨fun e he => ?_, h⟩
      simp only [List.mem_cons] at he
      rcases he with rfl | he
      · exact hlt
      · exact Nat.lt_trans hlt (h.1 _ he)
    · rename_i hge
      split
      · rw [symsRise_cons]; exact h
      · rename_i hne
        rw [symsRise_cons]
        refine ⟨fun e he => ?_, ih h.2⟩
        have hne' : sym.toNat ≠ a.1.toNat := fun hh => hne (BitVec.eq_of_toNat_eq hh)
        rcases countSym_keys he with h' | ⟨e', h1, h2⟩
        · rw [h']; omega
        · rw [← h2]; exact h.1 _ h1

/-! ### Sorting -/

theorem insertBy_perm {α : Type} (before : α → α → Bool) (x : α) (l : List α) :
    (insertBy before x l).Perm (x :: l) := by
  induction l with
  | nil => exact .refl _
  | cons y l ih =>
    simp only [insertBy]
    split
    · exact .refl _
    · exact (List.Perm.cons y ih).trans (List.Perm.swap x y l)

theorem sortBy_perm {α : Type} (before : α → α → Bool) (l : List α) : (sortBy before l).Perm l := by
  induction l with
  | nil => exact .refl _
  | cons y l ih => exact (insertBy_perm before y _).trans (List.Perm.cons y ih)

theorem symsRise_nodup {m : SymMap} (h : symsRise m = true) : m.Nodup := by
  induction m with
  | nil => exact .nil
  | cons e m ih =>
    rw [symsRise_cons] at h
    exact List.nodup_cons.2 ⟨fun hm => absurd (h.1 e hm) (lt_irrefl _), ih h.2⟩

/-- Which entries pruning keeps of a map past the heap's capacity: the first 1024 in the order of pruning (R226). -/
theorem mem_prune_of_large {prefs : List Word32} {m : SymMap} (h : sc2HeapCapacity < m.length) {e : Word32 × Nat} :
    e ∈ prune prefs m ↔ e ∈ (sortBy (pruneBefore prefs) m).take sc2HeapCapacity := by
  simp only [prune, if_pos h, List.mem_filter, List.contains_iff_mem]
  exact ⟨And.right, fun he => ⟨(sortBy_perm _ m).mem_iff.1 (List.mem_of_mem_take he), he⟩⟩

/-! ### The dictionary -/

theorem dictInsert_length {d : Dict} (b : Quad) (h : d.length = 16) : (dictInsert d b).length = 16 := by
  simp [dictInsert]; omega

theorem afterPartial_length {p : Params} {d : Dict} (b : Quad) (h : d.length = 16) :
    (afterPartial p d b).length = 16 := by
  unfold afterPartial; split
  · exact dictInsert_length b h
  · exact h

/-- A word leaves sixteen entries. -/
theorem cpackWord_length {p : Params} {d : Dict} (b : Quad) (h : d.length = 16) :
    (cpackWord p d b).2.length = 16 := by
  unfold cpackWord
  repeat' split
  all_goals first | exact h | exact dictInsert_length b h | exact afterPartial_length b h

/-! ### BDI -/

/-- The cheapest configuration of a list: one of the list, and no other costs less. -/
theorem cheapestConfig_spec {p : Params} {line : Line} {l : List (Nat × (Nat × Nat))} {q c : Nat}
    (h : cheapestConfig p line l = some (q, c)) :
    (∃ bd, (q, bd) ∈ l ∧ configCost p line bd.1 bd.2 = c) ∧ ∀ e ∈ l, c ≤ configCost p line e.2.1 e.2.2 := by
  induction l generalizing q c with
  | nil => cases h
  | cons a rest ih =>
    obtain ⟨q0, b, d⟩ := a
    simp only [cheapestConfig] at h
    cases hr : cheapestConfig p line rest with
    | none =>
      have hn : rest = [] := by
        cases rest with
        | nil => rfl
        | cons x y =>
          simp only [cheapestConfig] at hr
          split at hr
          · cases hr
          · split at hr <;> cases hr
      rw [hr] at h; cases h; subst hn
      exact ⟨⟨(b, d), by simp, rfl⟩, by simp⟩
    | some x =>
      obtain ⟨q', c'⟩ := x
      obtain ⟨⟨bd, hm, hc⟩, hall⟩ := ih hr
      rw [hr] at h
      simp only at h
      split at h <;> cases h
      · refine ⟨⟨bd, by simp [hm], hc⟩, fun e he => ?_⟩
        simp only [List.mem_cons] at he
        rcases he with rfl | he
        · simp only; omega
        · exact hall _ he
      · refine ⟨⟨(b, d), by simp, rfl⟩, fun e he => ?_⟩
        simp only [List.mem_cons] at he
        rcases he with rfl | he
        · exact Nat.le_refl _
        · have := hall _ he; omega

/-! ### The engine -/

/-- What a completed COMPRESS of the engine is. -/
theorem engineCompress_eq_ok {p : Params} {e : Engine} {supplied : Line} {n : Nat} {r : Nat × Engine}
    (h : engineCompress p e supplied n = .ok r) :
    ∃ a, p.alg = some a ∧ admitted p a n = true ∧
      r = ((engineLine p a e (lineOf supplied n)).1,
        { (engineLine p a e (lineOf supplied n)).2 with
          tot := e.tot.add n (engineLine p a e (lineOf supplied n)).1 }) := by
  unfold engineCompress at h
  split at h
  · cases h
  · rename_i a ha
    unfold lineOperand at h
    split at h
    · rename_i hn; cases h; exact ⟨a, ha, hn, rfl⟩
    · cases h

end Sys2Proof.Machine
end

