-- ==== Sys2Proof/Laws/Encoding.lean ====
section
/-! SUPPORT. The fields of a built command word, read back (spec/30_encoding.md R81). -/

namespace Sys2Proof

/-- The value of a command word whose parts fit their fields. -/
theorem cmdWord_toNat {unit verb idx arg : Nat} (hu : unit < 16) (hv : verb < 16) (hi : idx < 256)
    (ha : arg < 65536) :
    (cmdWord unit verb idx arg).toNat = unit * 2 ^ 28 + verb * 2 ^ 24 + idx * 2 ^ 16 + arg := by
  simp only [cmdWord, BitVec.toNat_ofNat]; omega

theorem cmdUnit_cmdWord {unit verb idx arg : Nat} (hu : unit < 16) (hv : verb < 16) (hi : idx < 256)
    (ha : arg < 65536) : cmdUnit (cmdWord unit verb idx arg) = unit := by
  simp only [cmdUnit, wordField, cmdWord_toNat hu hv hi ha]; omega

theorem cmdVerb_cmdWord {unit verb idx arg : Nat} (hu : unit < 16) (hv : verb < 16) (hi : idx < 256)
    (ha : arg < 65536) : cmdVerb (cmdWord unit verb idx arg) = verb := by
  simp only [cmdVerb, wordField, cmdWord_toNat hu hv hi ha]; omega

theorem cmdIdx_cmdWord {unit verb idx arg : Nat} (hu : unit < 16) (hv : verb < 16) (hi : idx < 256)
    (ha : arg < 65536) : cmdIdx (cmdWord unit verb idx arg) = idx := by
  simp only [cmdIdx, wordField, cmdWord_toNat hu hv hi ha]; omega

theorem cmdArg_cmdWord {unit verb idx arg : Nat} (hu : unit < 16) (hv : verb < 16) (hi : idx < 256)
    (ha : arg < 65536) : cmdArg (cmdWord unit verb idx arg) = arg := by
  simp only [cmdArg, wordField, cmdWord_toNat hu hv hi ha]; omega

/-- Bits 31 to 24 of a command word are its unit and verb (R81, R86). -/
theorem cmdWord_opcode {unit verb idx arg : Nat} (hu : unit < 16) (hv : verb < 16) (hi : idx < 256)
    (ha : arg < 65536) : (cmdWord unit verb idx arg).toNat / 2 ^ 24 = 16 * unit + verb := by
  rw [cmdWord_toNat hu hv hi ha]; omega

theorem dqPushArg_lt (head tail hasTxn : Bool) : dqPushArg head tail hasTxn < 65536 := by
  cases head <;> cases tail <;> cases hasTxn <;> decide

end Sys2Proof
end

