-- ==== Sys2Proof/Laws/Invariant.lean ====
section
/-! SUPPORT. The invariants of Sys2Proof/Safety.lean as propositions. -/

namespace Sys2Proof.Machine

theorem linkOk_iff (lp : LinkParams) (l : Link) :
    linkOk lp l = true ↔
      readyOk lp l.ready ∧ readyOk lp l.readyLong ∧ readyOk lp l.readyShort ∧ doneOk lp l.done ∧
        dqOk lp.dq l.dq ∧ l.dq.wr = (l.dq.rd + lp.dq.latency) % lp.dq.cap ∧
        (lp.kind = .compressed → cdqOk lp.cdq l.cdq) ∧ inFlightOk lp l ∧
        l.rr < lp.sources ∧ l.crr < lp.sources ∧
        l.leftover < lp.flitBits ∧ l.leftoverNodata < lp.flitBits ∧
        (lp.kind = .plain ∨ l.cur.isNone = true → l.leftover = 0 ∧ l.leftoverNodata = 0) := by
  unfold linkOk; exact decide_eq_true_iff

theorem sc2Ok_iff (p : Params) (c : Sc2) :
    sc2Ok p c = true ↔
      (c.phase = .sampling → c.calls < p.sc2WarmupCalls ∧ c.codelen = []) ∧
        (c.phase = .steady → c.calls = p.sc2WarmupCalls ∧ c.freq = []) ∧
        symsRise c.freq = true ∧ (c.freq.all fun e => decide (0 < e.2)) = true ∧
        symsRise c.codelen = true ∧ c.codelen.length ≤ sc2HeapCapacity := by
  unfold sc2Ok; exact decide_eq_true_iff

theorem encodersOk_iff (s : State) :
    encodersOk s = true ↔
      s.cpackDict.length = 16 ∧ s.engine.dict.length = 16 ∧
        s.bdiState.toNat ≤ 8 ∧ s.engine.bdiState.toNat ≤ 8 ∧
        sc2Ok s.cfg s.sc2 = true ∧ sc2Ok s.cfg s.engine.sc2 = true := by
  unfold encodersOk; exact decide_eq_true_iff

theorem registersOk_iff (s : State) :
    registersOk s = true ↔
      s.fault.toNat ≤ 8 ∧ (s.fault = 0 → configOk s.cfg = true) ∧ s.resValid = s.resTxn.isSome ∧
        s.remDn < 2 ^ s.cfg.bwFrac ∧ s.remUp < 2 ^ s.cfg.bwFrac ∧ s.opLine.length ≤ 128 := by
  unfold registersOk; exact decide_eq_true_iff

theorem unitsOk_iff (s : State) :
    unitsOk s = true ↔
      (s.cfg.has .dq = true → dqOk s.cfg.dq s.dq) ∧
        (s.cfg.has .cdq = true → cdqOk s.cfg.cdq s.cdq) ∧
        (s.cfg.has .lnk = true → linkOk s.cfg.lnk s.lnk = true) ∧
        (s.cfg.has .mldn = true → linkOk s.cfg.dnLink s.dn = true) ∧
        (s.cfg.has .mlup = true → linkOk s.cfg.upLink s.up = true) := by
  unfold unitsOk; exact decide_eq_true_iff

end Sys2Proof.Machine
end

