-- ==== Sys2Proof/Laws/Ops.lean ====
section
/-! SUPPORT. What the shared operations of Machine/Ops.lean and Machine/Operands.lean can do, said once each. -/

namespace Sys2Proof.Machine

/-! ### Commands and faults -/

theorem raise_eq (f : FaultCode) (s : State) :
    raise f s = { s with fault := f.code, res := 0, res64 := 0, resTxn := none, resValid := false } := rfl

theorem refuse_eq (s : State) :
    refuse s = { s with res := 0, res64 := 0, resTxn := none, resValid := false } := rfl

theorem FaultCode.code_ne_zero (f : FaultCode) : f.code ≠ 0 := by cases f <;> decide

theorem FaultCode.code_le_eight (f : FaultCode) : f.code.toNat ≤ 8 := by cases f <;> decide

theorem runCommand_of_fault {u : UnitId} {body : State → Except FaultCode State} {s : State}
    (h : s.fault ≠ 0) : runCommand u body s = .next (refuse s) := if_pos h

theorem runCommand_of_absent {u : UnitId} {body : State → Except FaultCode State} {s : State}
    (h : s.fault = 0) (hu : s.cfg.has u = false) : runCommand u body s = .next (raise .badCmd s) := by
  simp [runCommand, h, hu]

theorem runCommand_of_ok {u : UnitId} {body : State → Except FaultCode State} {s t : State}
    (h : s.fault = 0) (hu : s.cfg.has u = true) (hb : body s = .ok t) : runCommand u body s = .next t := by
  simp [runCommand, h, hu, hb]

theorem runCommand_of_error {u : UnitId} {body : State → Except FaultCode State} {s : State} {f : FaultCode}
    (h : s.fault = 0) (hu : s.cfg.has u = true) (hb : body s = .error f) :
    runCommand u body s = .next (raise f s) := by
  simp [runCommand, h, hu, hb]

/-- Everything a command of a unit can do. -/
theorem runCommand_cases (u : UnitId) (body : State → Except FaultCode State) (s : State) :
    (s.fault ≠ 0 ∧ runCommand u body s = .next (refuse s)) ∨
    (s.fault = 0 ∧ s.cfg.has u = false ∧ runCommand u body s = .next (raise .badCmd s)) ∨
    (s.fault = 0 ∧ s.cfg.has u = true ∧
      ((∃ t, body s = .ok t ∧ runCommand u body s = .next t) ∨
        ∃ f, body s = .error f ∧ runCommand u body s = .next (raise f s))) := by
  by_cases h : s.fault = 0
  · cases hu : s.cfg.has u with
    | false => exact .inr (.inl ⟨h, rfl, runCommand_of_absent h hu⟩)
    | true =>
      cases hb : body s with
      | ok t => exact .inr (.inr ⟨h, rfl, .inl ⟨t, rfl, runCommand_of_ok h hu hb⟩⟩)
      | error f => exact .inr (.inr ⟨h, rfl, .inr ⟨f, rfl, runCommand_of_error h hu hb⟩⟩)
  · exact .inl ⟨h, runCommand_of_fault h⟩

theorem illegalCommand_cases (s : State) :
    (s.fault ≠ 0 ∧ illegalCommand s = .next (refuse s)) ∨
      (s.fault = 0 ∧ illegalCommand s = .next (raise .badCmd s)) := by
  by_cases h : s.fault = 0
  · exact .inr ⟨h, by simp [illegalCommand, h]⟩
  · exact .inl ⟨h, if_pos h⟩

/-! ### Operands -/

theorem lineLatch_length_le (l : Line) : (lineLatch l).length ≤ 128 := List.length_take_le 128 l

/-- A line that fits the latch reaches it whole. -/
theorem lineLatch_of_fits {l : Line} (h : l.length ≤ 128) : lineLatch l = l := List.take_of_length_le h

theorem lineOperand_cases (p : Params) (a : Alg) (supplied : Line) (n : Nat) :
    (n ≠ 0 ∧ n % lineUnit a = 0 ∧ n ≤ p.maxLineBytes ∧ lineOperand p a supplied n = .ok (lineOf supplied n)) ∨
      ((n = 0 ∨ n % lineUnit a ≠ 0 ∨ p.maxLineBytes < n) ∧ lineOperand p a supplied n = .error .badLen) := by
  unfold lineOperand admitted
  by_cases h : n ≠ 0 ∧ n % lineUnit a = 0 ∧ n ≤ p.maxLineBytes
  · exact .inl ⟨h.1, h.2.1, h.2.2, by simp [h]⟩
  · refine .inr ⟨by omega, by simp only [h, decide_false]; rfl⟩

theorem lineOf_length (supplied : Line) (n : Nat) : (lineOf supplied n).length = n := by
  unfold lineOf; split <;> simp <;> omega

theorem lineOf_of_le {supplied : Line} {n : Nat} (h : n ≤ supplied.length) :
    lineOf supplied n = supplied.take n := by simp [lineOf, h]

/-! ### Arrays of queues -/

@[simp] theorem enqAt_length (qs : List (List Txn)) (i : Nat) (t : Txn) : (enqAt qs i t).length = qs.length := by
  simp [enqAt]

@[simp] theorem deqAt_length (qs : List (List Txn)) (i : Nat) : (deqAt qs i).length = qs.length := by
  simp [deqAt]

theorem queueAt_set (qs : List (List Txn)) (i j : Nat) (q : List Txn) :
    queueAt (qs.set i q) j = if i = j ∧ i < qs.length then q else queueAt qs j := by
  simp only [queueAt, List.getD_eq_getElem?_getD, List.getElem?_set]
  by_cases h : i = j
  · subst h
    by_cases hi : i < qs.length <;> simp [hi]
  · simp [h]

theorem queueAt_enqAt (qs : List (List Txn)) (i j : Nat) (t : Txn) :
    queueAt (enqAt qs i t) j = if i = j ∧ i < qs.length then queueAt qs i ++ [t] else queueAt qs j :=
  queueAt_set qs i j _

theorem queueAt_deqAt (qs : List (List Txn)) (i j : Nat) :
    queueAt (deqAt qs i) j = if i = j ∧ i < qs.length then (queueAt qs i).tail else queueAt qs j :=
  queueAt_set qs i j _

/-! ### The two rings -/

theorem advance_lt {cap : Nat} (h : 0 < cap) (p : Nat) : advance cap p < cap := Nat.mod_lt _ h

/-- Everything a push into a Compressed Delay Queue can do. -/
theorem cdqPush_cases (p : CdqParams) (q : Cdq) (t : Txn) (size : Word32) (now : Word64) :
    (q.count = p.cap ∧ cdqPush p q t size now = .error .cdqFull) ∨
      (q.count ≠ p.cap ∧
        cdqPush p q t size now = .ok
          { slots := q.slots.set q.wr { txn := some t, size := size, pushCycle := now }
            rd := q.rd
            wr := (q.wr + 1) % p.cap
            count := q.count + 1 }) := by
  by_cases h : q.count = p.cap <;> simp [cdqPush, cdqFull, advance, h]

theorem cdqTop_eq_some {p : CdqParams} {q : Cdq} {now : Word64} {c : CSlot} :
    cdqTop p q now = some c ↔
      0 < q.count ∧ c = q.slots.getD q.rd CSlot.empty ∧ c.pushCycle.toNat + p.latency < now.toNat := by
  simp only [cdqTop]
  constructor
  · intro h
    split at h
    · cases h; exact ⟨by omega, rfl, by omega⟩
    · cases h
  · rintro ⟨h, rfl, h'⟩; exact if_pos ⟨h, h'⟩

theorem cdqAfterPop_of_pos {p : CdqParams} {q : Cdq} (h : 0 < q.count) :
    cdqAfterPop p q =
      { slots := q.slots.set q.rd CSlot.empty, rd := (q.rd + 1) % p.cap, wr := q.wr, count := q.count - 1 } := by
  simp [cdqAfterPop, h, advance]

theorem cdqAfterPop_of_empty {p : CdqParams} {q : Cdq} (h : q.count = 0) : cdqAfterPop p q = q := by
  simp [cdqAfterPop, h]

end Sys2Proof.Machine
end

