-- ==== Sys2Proof/Laws/State.lean ====
section
/-! SUPPORT. One lemma per field per named update of the state and of its parts, each true by rfl. -/

namespace Sys2Proof.Machine

/-! ### State.clearResults -/

@[simp] theorem State.clearResults_cfg (s : State) : (s.clearResults).cfg = s.cfg := rfl
@[simp] theorem State.clearResults_inbox (s : State) : (s.clearResults).inbox = s.inbox := rfl
@[simp] theorem State.clearResults_cmd (s : State) : (s.clearResults).cmd = s.cmd := rfl
@[simp] theorem State.clearResults_opTxn (s : State) : (s.clearResults).opTxn = s.opTxn := rfl
@[simp] theorem State.clearResults_opLine (s : State) : (s.clearResults).opLine = s.opLine := rfl
@[simp] theorem State.clearResults_opBw (s : State) : (s.clearResults).opBw = s.opBw := rfl
@[simp] theorem State.clearResults_opNow (s : State) : (s.clearResults).opNow = s.opNow := rfl
@[simp] theorem State.clearResults_res (s : State) : (s.clearResults).res = 0 := rfl
@[simp] theorem State.clearResults_resTxn (s : State) : (s.clearResults).resTxn = none := rfl
@[simp] theorem State.clearResults_resValid (s : State) : (s.clearResults).resValid = false := rfl
@[simp] theorem State.clearResults_res64 (s : State) : (s.clearResults).res64 = 0 := rfl
@[simp] theorem State.clearResults_fault (s : State) : (s.clearResults).fault = s.fault := rfl
@[simp] theorem State.clearResults_mpcTot (s : State) : (s.clearResults).mpcTot = s.mpcTot := rfl
@[simp] theorem State.clearResults_bdiTot (s : State) : (s.clearResults).bdiTot = s.bdiTot := rfl
@[simp] theorem State.clearResults_fpcTot (s : State) : (s.clearResults).fpcTot = s.fpcTot := rfl
@[simp] theorem State.clearResults_bpcTot (s : State) : (s.clearResults).bpcTot = s.bpcTot := rfl
@[simp] theorem State.clearResults_cpackTot (s : State) : (s.clearResults).cpackTot = s.cpackTot := rfl
@[simp] theorem State.clearResults_sc2Tot (s : State) : (s.clearResults).sc2Tot = s.sc2Tot := rfl
@[simp] theorem State.clearResults_bdiState (s : State) : (s.clearResults).bdiState = s.bdiState := rfl
@[simp] theorem State.clearResults_cpackDict (s : State) : (s.clearResults).cpackDict = s.cpackDict := rfl
@[simp] theorem State.clearResults_sc2 (s : State) : (s.clearResults).sc2 = s.sc2 := rfl
@[simp] theorem State.clearResults_engine (s : State) : (s.clearResults).engine = s.engine := rfl
@[simp] theorem State.clearResults_dq (s : State) : (s.clearResults).dq = s.dq := rfl
@[simp] theorem State.clearResults_cdq (s : State) : (s.clearResults).cdq = s.cdq := rfl
@[simp] theorem State.clearResults_lnk (s : State) : (s.clearResults).lnk = s.lnk := rfl
@[simp] theorem State.clearResults_dn (s : State) : (s.clearResults).dn = s.dn := rfl
@[simp] theorem State.clearResults_up (s : State) : (s.clearResults).up = s.up := rfl
@[simp] theorem State.clearResults_remDn (s : State) : (s.clearResults).remDn = s.remDn := rfl
@[simp] theorem State.clearResults_remUp (s : State) : (s.clearResults).remUp = s.remUp := rfl

/-! ### refuse -/

@[simp] theorem refuse_cfg (s : State) : (refuse s).cfg = s.cfg := rfl
@[simp] theorem refuse_inbox (s : State) : (refuse s).inbox = s.inbox := rfl
@[simp] theorem refuse_cmd (s : State) : (refuse s).cmd = s.cmd := rfl
@[simp] theorem refuse_opTxn (s : State) : (refuse s).opTxn = s.opTxn := rfl
@[simp] theorem refuse_opLine (s : State) : (refuse s).opLine = s.opLine := rfl
@[simp] theorem refuse_opBw (s : State) : (refuse s).opBw = s.opBw := rfl
@[simp] theorem refuse_opNow (s : State) : (refuse s).opNow = s.opNow := rfl
@[simp] theorem refuse_res (s : State) : (refuse s).res = 0 := rfl
@[simp] theorem refuse_resTxn (s : State) : (refuse s).resTxn = none := rfl
@[simp] theorem refuse_resValid (s : State) : (refuse s).resValid = false := rfl
@[simp] theorem refuse_res64 (s : State) : (refuse s).res64 = 0 := rfl
@[simp] theorem refuse_fault (s : State) : (refuse s).fault = s.fault := rfl
@[simp] theorem refuse_mpcTot (s : State) : (refuse s).mpcTot = s.mpcTot := rfl
@[simp] theorem refuse_bdiTot (s : State) : (refuse s).bdiTot = s.bdiTot := rfl
@[simp] theorem refuse_fpcTot (s : State) : (refuse s).fpcTot = s.fpcTot := rfl
@[simp] theorem refuse_bpcTot (s : State) : (refuse s).bpcTot = s.bpcTot := rfl
@[simp] theorem refuse_cpackTot (s : State) : (refuse s).cpackTot = s.cpackTot := rfl
@[simp] theorem refuse_sc2Tot (s : State) : (refuse s).sc2Tot = s.sc2Tot := rfl
@[simp] theorem refuse_bdiState (s : State) : (refuse s).bdiState = s.bdiState := rfl
@[simp] theorem refuse_cpackDict (s : State) : (refuse s).cpackDict = s.cpackDict := rfl
@[simp] theorem refuse_sc2 (s : State) : (refuse s).sc2 = s.sc2 := rfl
@[simp] theorem refuse_engine (s : State) : (refuse s).engine = s.engine := rfl
@[simp] theorem refuse_dq (s : State) : (refuse s).dq = s.dq := rfl
@[simp] theorem refuse_cdq (s : State) : (refuse s).cdq = s.cdq := rfl
@[simp] theorem refuse_lnk (s : State) : (refuse s).lnk = s.lnk := rfl
@[simp] theorem refuse_dn (s : State) : (refuse s).dn = s.dn := rfl
@[simp] theorem refuse_up (s : State) : (refuse s).up = s.up := rfl
@[simp] theorem refuse_remDn (s : State) : (refuse s).remDn = s.remDn := rfl
@[simp] theorem refuse_remUp (s : State) : (refuse s).remUp = s.remUp := rfl

/-! ### raise -/

@[simp] theorem raise_cfg (f : FaultCode) (s : State) : (raise f s).cfg = s.cfg := rfl
@[simp] theorem raise_inbox (f : FaultCode) (s : State) : (raise f s).inbox = s.inbox := rfl
@[simp] theorem raise_cmd (f : FaultCode) (s : State) : (raise f s).cmd = s.cmd := rfl
@[simp] theorem raise_opTxn (f : FaultCode) (s : State) : (raise f s).opTxn = s.opTxn := rfl
@[simp] theorem raise_opLine (f : FaultCode) (s : State) : (raise f s).opLine = s.opLine := rfl
@[simp] theorem raise_opBw (f : FaultCode) (s : State) : (raise f s).opBw = s.opBw := rfl
@[simp] theorem raise_opNow (f : FaultCode) (s : State) : (raise f s).opNow = s.opNow := rfl
@[simp] theorem raise_res (f : FaultCode) (s : State) : (raise f s).res = 0 := rfl
@[simp] theorem raise_resTxn (f : FaultCode) (s : State) : (raise f s).resTxn = none := rfl
@[simp] theorem raise_resValid (f : FaultCode) (s : State) : (raise f s).resValid = false := rfl
@[simp] theorem raise_res64 (f : FaultCode) (s : State) : (raise f s).res64 = 0 := rfl
@[simp] theorem raise_fault (f : FaultCode) (s : State) : (raise f s).fault = f.code := rfl
@[simp] theorem raise_mpcTot (f : FaultCode) (s : State) : (raise f s).mpcTot = s.mpcTot := rfl
@[simp] theorem raise_bdiTot (f : FaultCode) (s : State) : (raise f s).bdiTot = s.bdiTot := rfl
@[simp] theorem raise_fpcTot (f : FaultCode) (s : State) : (raise f s).fpcTot = s.fpcTot := rfl
@[simp] theorem raise_bpcTot (f : FaultCode) (s : State) : (raise f s).bpcTot = s.bpcTot := rfl
@[simp] theorem raise_cpackTot (f : FaultCode) (s : State) : (raise f s).cpackTot = s.cpackTot := rfl
@[simp] theorem raise_sc2Tot (f : FaultCode) (s : State) : (raise f s).sc2Tot = s.sc2Tot := rfl
@[simp] theorem raise_bdiState (f : FaultCode) (s : State) : (raise f s).bdiState = s.bdiState := rfl
@[simp] theorem raise_cpackDict (f : FaultCode) (s : State) : (raise f s).cpackDict = s.cpackDict := rfl
@[simp] theorem raise_sc2 (f : FaultCode) (s : State) : (raise f s).sc2 = s.sc2 := rfl
@[simp] theorem raise_engine (f : FaultCode) (s : State) : (raise f s).engine = s.engine := rfl
@[simp] theorem raise_dq (f : FaultCode) (s : State) : (raise f s).dq = s.dq := rfl
@[simp] theorem raise_cdq (f : FaultCode) (s : State) : (raise f s).cdq = s.cdq := rfl
@[simp] theorem raise_lnk (f : FaultCode) (s : State) : (raise f s).lnk = s.lnk := rfl
@[simp] theorem raise_dn (f : FaultCode) (s : State) : (raise f s).dn = s.dn := rfl
@[simp] theorem raise_up (f : FaultCode) (s : State) : (raise f s).up = s.up := rfl
@[simp] theorem raise_remDn (f : FaultCode) (s : State) : (raise f s).remDn = s.remDn := rfl
@[simp] theorem raise_remUp (f : FaultCode) (s : State) : (raise f s).remUp = s.remUp := rfl

/-! ### State.present -/

@[simp] theorem State.present_cfg (s : State) (c : Command) : (s.present c).cfg = s.cfg := rfl
@[simp] theorem State.present_inbox (s : State) (c : Command) : (s.present c).inbox = s.inbox := rfl
@[simp] theorem State.present_cmd (s : State) (c : Command) : (s.present c).cmd = c.word := rfl
@[simp] theorem State.present_opTxn (s : State) (c : Command) : (s.present c).opTxn = c.txn.getD s.opTxn := rfl
@[simp] theorem State.present_opLine (s : State) (c : Command) : (s.present c).opLine = (c.line.map lineLatch).getD s.opLine := rfl
@[simp] theorem State.present_opBw (s : State) (c : Command) : (s.present c).opBw = c.bw.getD s.opBw := rfl
@[simp] theorem State.present_opNow (s : State) (c : Command) : (s.present c).opNow = c.now.getD s.opNow := rfl
@[simp] theorem State.present_res (s : State) (c : Command) : (s.present c).res = s.res := rfl
@[simp] theorem State.present_resTxn (s : State) (c : Command) : (s.present c).resTxn = s.resTxn := rfl
@[simp] theorem State.present_resValid (s : State) (c : Command) : (s.present c).resValid = s.resValid := rfl
@[simp] theorem State.present_res64 (s : State) (c : Command) : (s.present c).res64 = s.res64 := rfl
@[simp] theorem State.present_fault (s : State) (c : Command) : (s.present c).fault = s.fault := rfl
@[simp] theorem State.present_mpcTot (s : State) (c : Command) : (s.present c).mpcTot = s.mpcTot := rfl
@[simp] theorem State.present_bdiTot (s : State) (c : Command) : (s.present c).bdiTot = s.bdiTot := rfl
@[simp] theorem State.present_fpcTot (s : State) (c : Command) : (s.present c).fpcTot = s.fpcTot := rfl
@[simp] theorem State.present_bpcTot (s : State) (c : Command) : (s.present c).bpcTot = s.bpcTot := rfl
@[simp] theorem State.present_cpackTot (s : State) (c : Command) : (s.present c).cpackTot = s.cpackTot := rfl
@[simp] theorem State.present_sc2Tot (s : State) (c : Command) : (s.present c).sc2Tot = s.sc2Tot := rfl
@[simp] theorem State.present_bdiState (s : State) (c : Command) : (s.present c).bdiState = s.bdiState := rfl
@[simp] theorem State.present_cpackDict (s : State) (c : Command) : (s.present c).cpackDict = s.cpackDict := rfl
@[simp] theorem State.present_sc2 (s : State) (c : Command) : (s.present c).sc2 = s.sc2 := rfl
@[simp] theorem State.present_engine (s : State) (c : Command) : (s.present c).engine = s.engine := rfl
@[simp] theorem State.present_dq (s : State) (c : Command) : (s.present c).dq = s.dq := rfl
@[simp] theorem State.present_cdq (s : State) (c : Command) : (s.present c).cdq = s.cdq := rfl
@[simp] theorem State.present_lnk (s : State) (c : Command) : (s.present c).lnk = s.lnk := rfl
@[simp] theorem State.present_dn (s : State) (c : Command) : (s.present c).dn = s.dn := rfl
@[simp] theorem State.present_up (s : State) (c : Command) : (s.present c).up = s.up := rfl
@[simp] theorem State.present_remDn (s : State) (c : Command) : (s.present c).remDn = s.remDn := rfl
@[simp] theorem State.present_remUp (s : State) (c : Command) : (s.present c).remUp = s.remUp := rfl

/-! ### State.reinit -/

@[simp] theorem State.reinit_cfg (s : State) : (s.reinit).cfg = s.cfg := rfl
@[simp] theorem State.reinit_inbox (s : State) : (s.reinit).inbox = s.inbox := rfl
@[simp] theorem State.reinit_cmd (s : State) : (s.reinit).cmd = s.cmd := rfl
@[simp] theorem State.reinit_opTxn (s : State) : (s.reinit).opTxn = s.opTxn := rfl
@[simp] theorem State.reinit_opLine (s : State) : (s.reinit).opLine = s.opLine := rfl
@[simp] theorem State.reinit_opBw (s : State) : (s.reinit).opBw = s.opBw := rfl
@[simp] theorem State.reinit_opNow (s : State) : (s.reinit).opNow = s.opNow := rfl
@[simp] theorem State.reinit_res (s : State) : (s.reinit).res = 0 := rfl
@[simp] theorem State.reinit_resTxn (s : State) : (s.reinit).resTxn = none := rfl
@[simp] theorem State.reinit_resValid (s : State) : (s.reinit).resValid = false := rfl
@[simp] theorem State.reinit_res64 (s : State) : (s.reinit).res64 = 0 := rfl
@[simp] theorem State.reinit_fault (s : State) : (s.reinit).fault = resetFault s.cfg := rfl
@[simp] theorem State.reinit_mpcTot (s : State) : (s.reinit).mpcTot = resetTotals := rfl
@[simp] theorem State.reinit_bdiTot (s : State) : (s.reinit).bdiTot = resetTotals := rfl
@[simp] theorem State.reinit_fpcTot (s : State) : (s.reinit).fpcTot = resetTotals := rfl
@[simp] theorem State.reinit_bpcTot (s : State) : (s.reinit).bpcTot = resetTotals := rfl
@[simp] theorem State.reinit_cpackTot (s : State) : (s.reinit).cpackTot = resetTotals := rfl
@[simp] theorem State.reinit_sc2Tot (s : State) : (s.reinit).sc2Tot = resetTotals := rfl
@[simp] theorem State.reinit_bdiState (s : State) : (s.reinit).bdiState = bdiUncompressed := rfl
@[simp] theorem State.reinit_cpackDict (s : State) : (s.reinit).cpackDict = resetDict := rfl
@[simp] theorem State.reinit_sc2 (s : State) : (s.reinit).sc2 = resetSc2 s.cfg := rfl
@[simp] theorem State.reinit_engine (s : State) : (s.reinit).engine = resetEngine s.cfg := rfl
@[simp] theorem State.reinit_dq (s : State) : (s.reinit).dq = resetDq s.cfg.dq := rfl
@[simp] theorem State.reinit_cdq (s : State) : (s.reinit).cdq = resetCdq s.cfg.cdq := rfl
@[simp] theorem State.reinit_lnk (s : State) : (s.reinit).lnk = resetLink s.cfg.lnk := rfl
@[simp] theorem State.reinit_dn (s : State) : (s.reinit).dn = resetLink s.cfg.dnLink := rfl
@[simp] theorem State.reinit_up (s : State) : (s.reinit).up = resetLink s.cfg.upLink := rfl
@[simp] theorem State.reinit_remDn (s : State) : (s.reinit).remDn = 0 := rfl
@[simp] theorem State.reinit_remUp (s : State) : (s.reinit).remUp = 0 := rfl

/-! ### State.resetFor -/

@[simp] theorem State.resetFor_cfg (p : Params) : (State.resetFor p).cfg = p := rfl
@[simp] theorem State.resetFor_inbox (p : Params) : (State.resetFor p).inbox = [] := rfl
@[simp] theorem State.resetFor_cmd (p : Params) : (State.resetFor p).cmd = 0 := rfl
@[simp] theorem State.resetFor_opTxn (p : Params) : (State.resetFor p).opTxn = resetTxn := rfl
@[simp] theorem State.resetFor_opLine (p : Params) : (State.resetFor p).opLine = resetLine := rfl
@[simp] theorem State.resetFor_opBw (p : Params) : (State.resetFor p).opBw = 0 := rfl
@[simp] theorem State.resetFor_opNow (p : Params) : (State.resetFor p).opNow = 0 := rfl
@[simp] theorem State.resetFor_res (p : Params) : (State.resetFor p).res = 0 := rfl
@[simp] theorem State.resetFor_resTxn (p : Params) : (State.resetFor p).resTxn = none := rfl
@[simp] theorem State.resetFor_resValid (p : Params) : (State.resetFor p).resValid = false := rfl
@[simp] theorem State.resetFor_res64 (p : Params) : (State.resetFor p).res64 = 0 := rfl
@[simp] theorem State.resetFor_fault (p : Params) : (State.resetFor p).fault = resetFault p := rfl
@[simp] theorem State.resetFor_mpcTot (p : Params) : (State.resetFor p).mpcTot = resetTotals := rfl
@[simp] theorem State.resetFor_bdiTot (p : Params) : (State.resetFor p).bdiTot = resetTotals := rfl
@[simp] theorem State.resetFor_fpcTot (p : Params) : (State.resetFor p).fpcTot = resetTotals := rfl
@[simp] theorem State.resetFor_bpcTot (p : Params) : (State.resetFor p).bpcTot = resetTotals := rfl
@[simp] theorem State.resetFor_cpackTot (p : Params) : (State.resetFor p).cpackTot = resetTotals := rfl
@[simp] theorem State.resetFor_sc2Tot (p : Params) : (State.resetFor p).sc2Tot = resetTotals := rfl
@[simp] theorem State.resetFor_bdiState (p : Params) : (State.resetFor p).bdiState = bdiUncompressed := rfl
@[simp] theorem State.resetFor_cpackDict (p : Params) : (State.resetFor p).cpackDict = resetDict := rfl
@[simp] theorem State.resetFor_sc2 (p : Params) : (State.resetFor p).sc2 = resetSc2 p := rfl
@[simp] theorem State.resetFor_engine (p : Params) : (State.resetFor p).engine = resetEngine p := rfl
@[simp] theorem State.resetFor_dq (p : Params) : (State.resetFor p).dq = resetDq p.dq := rfl
@[simp] theorem State.resetFor_cdq (p : Params) : (State.resetFor p).cdq = resetCdq p.cdq := rfl
@[simp] theorem State.resetFor_lnk (p : Params) : (State.resetFor p).lnk = resetLink p.lnk := rfl
@[simp] theorem State.resetFor_dn (p : Params) : (State.resetFor p).dn = resetLink p.dnLink := rfl
@[simp] theorem State.resetFor_up (p : Params) : (State.resetFor p).up = resetLink p.upLink := rfl
@[simp] theorem State.resetFor_remDn (p : Params) : (State.resetFor p).remDn = 0 := rfl
@[simp] theorem State.resetFor_remUp (p : Params) : (State.resetFor p).remUp = 0 := rfl

/-! ### tick -/

@[simp] theorem tick_ready (l : Link) : (tick l).ready = l.ready := rfl
@[simp] theorem tick_readyLong (l : Link) : (tick l).readyLong = l.readyLong := rfl
@[simp] theorem tick_readyShort (l : Link) : (tick l).readyShort = l.readyShort := rfl
@[simp] theorem tick_done (l : Link) : (tick l).done = l.done := rfl
@[simp] theorem tick_dq (l : Link) : (tick l).dq = l.dq := rfl
@[simp] theorem tick_cdq (l : Link) : (tick l).cdq = l.cdq := rfl
@[simp] theorem tick_rr (l : Link) : (tick l).rr = l.rr := rfl
@[simp] theorem tick_crr (l : Link) : (tick l).crr = l.crr := rfl
@[simp] theorem tick_cur (l : Link) : (tick l).cur = l.cur := rfl
@[simp] theorem tick_leftover (l : Link) : (tick l).leftover = l.leftover := rfl
@[simp] theorem tick_leftoverNodata (l : Link) : (tick l).leftoverNodata = l.leftoverNodata := rfl
@[simp] theorem tick_cycle (l : Link) : (tick l).cycle = l.cycle + 1 := rfl

/-! ### linkPop -/

@[simp] theorem linkPop_ready (l : Link) (d : Nat) : (linkPop l d).ready = l.ready := rfl
@[simp] theorem linkPop_readyLong (l : Link) (d : Nat) : (linkPop l d).readyLong = l.readyLong := rfl
@[simp] theorem linkPop_readyShort (l : Link) (d : Nat) : (linkPop l d).readyShort = l.readyShort := rfl
@[simp] theorem linkPop_done (l : Link) (d : Nat) : (linkPop l d).done = deqAt l.done d := rfl
@[simp] theorem linkPop_dq (l : Link) (d : Nat) : (linkPop l d).dq = l.dq := rfl
@[simp] theorem linkPop_cdq (l : Link) (d : Nat) : (linkPop l d).cdq = l.cdq := rfl
@[simp] theorem linkPop_rr (l : Link) (d : Nat) : (linkPop l d).rr = l.rr := rfl
@[simp] theorem linkPop_crr (l : Link) (d : Nat) : (linkPop l d).crr = l.crr := rfl
@[simp] theorem linkPop_cur (l : Link) (d : Nat) : (linkPop l d).cur = l.cur := rfl
@[simp] theorem linkPop_leftover (l : Link) (d : Nat) : (linkPop l d).leftover = l.leftover := rfl
@[simp] theorem linkPop_leftoverNodata (l : Link) (d : Nat) : (linkPop l d).leftoverNodata = l.leftoverNodata := rfl
@[simp] theorem linkPop_cycle (l : Link) (d : Nat) : (linkPop l d).cycle = l.cycle := rfl

/-! ### emitFlit -/

@[simp] theorem emitFlit_ready (lp : LinkParams) (l : Link) (c : Packet) : (emitFlit lp l c).ready = l.ready := rfl
@[simp] theorem emitFlit_readyLong (lp : LinkParams) (l : Link) (c : Packet) : (emitFlit lp l c).readyLong = l.readyLong := rfl
@[simp] theorem emitFlit_readyShort (lp : LinkParams) (l : Link) (c : Packet) : (emitFlit lp l c).readyShort = l.readyShort := rfl
@[simp] theorem emitFlit_done (lp : LinkParams) (l : Link) (c : Packet) : (emitFlit lp l c).done = l.done := rfl
@[simp] theorem emitFlit_dq (lp : LinkParams) (l : Link) (c : Packet) : (emitFlit lp l c).dq = dqPush lp.dq l.dq c.flit := rfl
@[simp] theorem emitFlit_cdq (lp : LinkParams) (l : Link) (c : Packet) : (emitFlit lp l c).cdq = l.cdq := rfl
@[simp] theorem emitFlit_rr (lp : LinkParams) (l : Link) (c : Packet) : (emitFlit lp l c).rr = l.rr := rfl
@[simp] theorem emitFlit_crr (lp : LinkParams) (l : Link) (c : Packet) : (emitFlit lp l c).crr = l.crr := rfl
@[simp] theorem emitFlit_cur (lp : LinkParams) (l : Link) (c : Packet) : (emitFlit lp l c).cur = c.rest := rfl
@[simp] theorem emitFlit_leftover (lp : LinkParams) (l : Link) (c : Packet) : (emitFlit lp l c).leftover = l.leftover := rfl
@[simp] theorem emitFlit_leftoverNodata (lp : LinkParams) (l : Link) (c : Packet) : (emitFlit lp l c).leftoverNodata = l.leftoverNodata := rfl
@[simp] theorem emitFlit_cycle (lp : LinkParams) (l : Link) (c : Packet) : (emitFlit lp l c).cycle = l.cycle := rfl

/-! ### startLong -/

@[simp] theorem startLong_ready (lp : LinkParams) (l : Link) (t : Txn) (n : Nat) : (startLong lp l t n).ready = l.ready := rfl
@[simp] theorem startLong_readyLong (lp : LinkParams) (l : Link) (t : Txn) (n : Nat) : (startLong lp l t n).readyLong = l.readyLong := rfl
@[simp] theorem startLong_readyShort (lp : LinkParams) (l : Link) (t : Txn) (n : Nat) : (startLong lp l t n).readyShort = l.readyShort := rfl
@[simp] theorem startLong_done (lp : LinkParams) (l : Link) (t : Txn) (n : Nat) : (startLong lp l t n).done = l.done := rfl
@[simp] theorem startLong_dq (lp : LinkParams) (l : Link) (t : Txn) (n : Nat) : (startLong lp l t n).dq = l.dq := rfl
@[simp] theorem startLong_cdq (lp : LinkParams) (l : Link) (t : Txn) (n : Nat) : (startLong lp l t n).cdq = l.cdq := rfl
@[simp] theorem startLong_rr (lp : LinkParams) (l : Link) (t : Txn) (n : Nat) : (startLong lp l t n).rr = l.rr := rfl
@[simp] theorem startLong_crr (lp : LinkParams) (l : Link) (t : Txn) (n : Nat) : (startLong lp l t n).crr = l.crr := rfl
@[simp] theorem startLong_cur (lp : LinkParams) (l : Link) (t : Txn) (n : Nat) : (startLong lp l t n).cur = some { txn := t, left := paddedFlits lp (lp.headBits + n) l.leftover, first := true } := rfl
@[simp] theorem startLong_leftover (lp : LinkParams) (l : Link) (t : Txn) (n : Nat) : (startLong lp l t n).leftover = paddedRest lp (lp.headBits + n) l.leftover := rfl
@[simp] theorem startLong_leftoverNodata (lp : LinkParams) (l : Link) (t : Txn) (n : Nat) : (startLong lp l t n).leftoverNodata = l.leftoverNodata := rfl
@[simp] theorem startLong_cycle (lp : LinkParams) (l : Link) (t : Txn) (n : Nat) : (startLong lp l t n).cycle = l.cycle := rfl

/-! ### startShort -/

@[simp] theorem startShort_ready (lp : LinkParams) (l : Link) (t : Txn) : (startShort lp l t).ready = l.ready := rfl
@[simp] theorem startShort_readyLong (lp : LinkParams) (l : Link) (t : Txn) : (startShort lp l t).readyLong = l.readyLong := rfl
@[simp] theorem startShort_readyShort (lp : LinkParams) (l : Link) (t : Txn) : (startShort lp l t).readyShort = l.readyShort := rfl
@[simp] theorem startShort_done (lp : LinkParams) (l : Link) (t : Txn) : (startShort lp l t).done = l.done := rfl
@[simp] theorem startShort_dq (lp : LinkParams) (l : Link) (t : Txn) : (startShort lp l t).dq = l.dq := rfl
@[simp] theorem startShort_cdq (lp : LinkParams) (l : Link) (t : Txn) : (startShort lp l t).cdq = l.cdq := rfl
@[simp] theorem startShort_rr (lp : LinkParams) (l : Link) (t : Txn) : (startShort lp l t).rr = l.rr := rfl
@[simp] theorem startShort_crr (lp : LinkParams) (l : Link) (t : Txn) : (startShort lp l t).crr = l.crr := rfl
@[simp] theorem startShort_cur (lp : LinkParams) (l : Link) (t : Txn) : (startShort lp l t).cur = some { txn := t, left := paddedFlits lp lp.headBits l.leftoverNodata, first := true } := rfl
@[simp] theorem startShort_leftover (lp : LinkParams) (l : Link) (t : Txn) : (startShort lp l t).leftover = l.leftover := rfl
@[simp] theorem startShort_leftoverNodata (lp : LinkParams) (l : Link) (t : Txn) : (startShort lp l t).leftoverNodata = paddedRest lp lp.headBits l.leftoverNodata := rfl
@[simp] theorem startShort_cycle (lp : LinkParams) (l : Link) (t : Txn) : (startShort lp l t).cycle = l.cycle := rfl

/-! ### resetLink -/

@[simp] theorem resetLink_ready (p : LinkParams) : (resetLink p).ready = List.replicate p.sources [] := rfl
@[simp] theorem resetLink_readyLong (p : LinkParams) : (resetLink p).readyLong = List.replicate p.sources [] := rfl
@[simp] theorem resetLink_readyShort (p : LinkParams) : (resetLink p).readyShort = List.replicate p.sources [] := rfl
@[simp] theorem resetLink_done (p : LinkParams) : (resetLink p).done = List.replicate p.dests [] := rfl
@[simp] theorem resetLink_dq (p : LinkParams) : (resetLink p).dq = resetDq p.dq := rfl
@[simp] theorem resetLink_cdq (p : LinkParams) : (resetLink p).cdq = resetCdq p.cdq := rfl
@[simp] theorem resetLink_rr (p : LinkParams) : (resetLink p).rr = 0 := rfl
@[simp] theorem resetLink_crr (p : LinkParams) : (resetLink p).crr = 0 := rfl
@[simp] theorem resetLink_cur (p : LinkParams) : (resetLink p).cur = none := rfl
@[simp] theorem resetLink_leftover (p : LinkParams) : (resetLink p).leftover = 0 := rfl
@[simp] theorem resetLink_leftoverNodata (p : LinkParams) : (resetLink p).leftoverNodata = 0 := rfl
@[simp] theorem resetLink_cycle (p : LinkParams) : (resetLink p).cycle = 0 := rfl

/-! ### dqPush -/

@[simp] theorem dqPush_slots (p : DqParams) (q : Dq) (f : Slot) : (dqPush p q f).slots = q.slots.set q.wr f := rfl
@[simp] theorem dqPush_rd (p : DqParams) (q : Dq) (f : Slot) : (dqPush p q f).rd = q.rd := rfl
@[simp] theorem dqPush_wr (p : DqParams) (q : Dq) (f : Slot) : (dqPush p q f).wr = advance p.cap q.wr := rfl

/-! ### dqAfterPop -/

@[simp] theorem dqAfterPop_slots (p : DqParams) (q : Dq) : (dqAfterPop p q).slots = if p.popClears then q.slots.set q.rd Slot.empty else q.slots := rfl
@[simp] theorem dqAfterPop_rd (p : DqParams) (q : Dq) : (dqAfterPop p q).rd = advance p.cap q.rd := rfl
@[simp] theorem dqAfterPop_wr (p : DqParams) (q : Dq) : (dqAfterPop p q).wr = q.wr := rfl

/-! ### resetDq -/

@[simp] theorem resetDq_slots (p : DqParams) : (resetDq p).slots = List.replicate p.cap Slot.empty := rfl
@[simp] theorem resetDq_rd (p : DqParams) : (resetDq p).rd = 0 := rfl
@[simp] theorem resetDq_wr (p : DqParams) : (resetDq p).wr = p.latency % p.cap := rfl

/-! ### resetCdq -/

@[simp] theorem resetCdq_slots (p : CdqParams) : (resetCdq p).slots = List.replicate p.cap CSlot.empty := rfl
@[simp] theorem resetCdq_rd (p : CdqParams) : (resetCdq p).rd = 0 := rfl
@[simp] theorem resetCdq_wr (p : CdqParams) : (resetCdq p).wr = 0 := rfl
@[simp] theorem resetCdq_count (p : CdqParams) : (resetCdq p).count = 0 := rfl

/-! ### Totals.add -/

@[simp] theorem Totals.add_unc (t : Totals) (n b : Nat) : (t.add n b).unc = t.unc + BitVec.ofNat 64 (8 * n) := rfl
@[simp] theorem Totals.add_cmp (t : Totals) (n b : Nat) : (t.add n b).cmp = t.cmp + BitVec.ofNat 64 b := rfl

end Sys2Proof.Machine
end

