-- ==== Sys2Proof/Laws/Link.lean ====
section
/-! SUPPORT. What the operations of Machine/LinkOps.lean can do, said once each: their cases, and the fields of the
link that they leave as they are. -/

namespace Sys2Proof.Machine

/-! ### Sequencing -/

theorem bind_eq_ok {α β : Type} {x : Except FaultCode α} {f : α → Except FaultCode β} {b : β} :
    x >>= f = .ok b ↔ ∃ a, x = .ok a ∧ f a = .ok b := by
  cases x <;> simp [bind, Except.bind]

theorem bind_eq_error {α β : Type} {x : Except FaultCode α} {f : α → Except FaultCode β} {e : FaultCode} :
    x >>= f = .error e ↔ x = .error e ∨ ∃ a, x = .ok a ∧ f a = .error e := by
  cases x <;> simp [bind, Except.bind]

/-! ### PUSH -/

/-- Everything PUSH on a link can do, in the order of its tests. -/
theorem linkPush_cases (lp : LinkParams) (l : Link) (src : Nat) (t : Txn) :
    (lp.sources ≤ src ∧ linkPush lp l src t = .error .badCmd) ∨
    (src < lp.sources ∧ t.badType = true ∧ lp.badTypeAt = .push ∧ linkPush lp l src t = .error .badType) ∨
    (src < lp.sources ∧ (t.badType = false ∨ lp.badTypeAt = .schedule) ∧ lp.dests ≤ t.dst ∧
      linkPush lp l src t = .error .badDst) ∨
    (src < lp.sources ∧ (t.badType = false ∨ lp.badTypeAt = .schedule) ∧ t.dst < lp.dests ∧
      (queueAt (readyOf lp l t) src).length = lp.readyDepth ∧ linkPush lp l src t = .error .readyFull) ∨
    (src < lp.sources ∧ (t.badType = false ∨ lp.badTypeAt = .schedule) ∧ t.dst < lp.dests ∧
      (queueAt (readyOf lp l t) src).length ≠ lp.readyDepth ∧
      linkPush lp l src t = .ok (enqReady lp l src t)) := by
  by_cases hs : src < lp.sources
  · by_cases hb : t.badType = true ∧ lp.badTypeAt = .push
    · exact .inr (.inl ⟨hs, hb.1, hb.2, by simp [linkPush, hs, hb]⟩)
    · have ht : t.badType = false ∨ lp.badTypeAt = .schedule := by
        cases h1 : t.badType <;> cases h2 : lp.badTypeAt <;> simp_all
      by_cases hd : lp.dests ≤ t.dst
      · exact .inr (.inr (.inl ⟨hs, ht, hd, by simp only [linkPush, hs, hb, hd, if_true, if_false]⟩))
      · by_cases hr : (queueAt (readyOf lp l t) src).length = lp.readyDepth
        · exact .inr (.inr (.inr (.inl ⟨hs, ht, by omega, hr,
            by simp only [linkPush, hs, hb, hd, hr, if_true, if_false]⟩)))
        · exact .inr (.inr (.inr (.inr ⟨hs, ht, by omega, hr,
            by simp only [linkPush, hs, hb, hd, hr, if_true, if_false]⟩)))
  · exact .inl ⟨by omega, by simp [linkPush, hs]⟩

/-- The three ready arrays after a transaction is appended to one of them. -/
theorem enqReady_cases (lp : LinkParams) (l : Link) (src : Nat) (t : Txn) :
    (lp.kind = .plain ∧ readyOf lp l t = l.ready ∧
      enqReady lp l src t = { l with ready := enqAt l.ready src t }) ∨
    (lp.kind = .compressed ∧ t.long = true ∧ readyOf lp l t = l.readyLong ∧
      enqReady lp l src t = { l with readyLong := enqAt l.readyLong src t }) ∨
    (lp.kind = .compressed ∧ t.long = false ∧ readyOf lp l t = l.readyShort ∧
      enqReady lp l src t = { l with readyShort := enqAt l.readyShort src t }) := by
  cases hk : lp.kind with
  | plain => exact .inl ⟨rfl, by simp [readyOf, hk], by simp [enqReady, hk]⟩
  | compressed =>
    cases ht : t.long with
    | true => exact .inr (.inl ⟨rfl, rfl, by simp [readyOf, hk, ht], by simp [enqReady, hk, ht]⟩)
    | false => exact .inr (.inr ⟨rfl, rfl, by simp [readyOf, hk, ht], by simp [enqReady, hk, ht]⟩)

/-! ### The pop phase -/

/-- Everything one pop of the pop phase can do. -/
theorem popOnce_cases (lp : LinkParams) (l : Link) :
    (dqHead l.dq = none ∧ popOnce lp l = .ok { l with dq := dqAfterPop lp.dq l.dq }) ∨
    ∃ t, dqHead l.dq = some t ∧
      ((doneFull lp l t.dst = true ∧ popOnce lp l = .error .doneOverflow) ∨
        (doneFull lp l t.dst = false ∧
          popOnce lp l = .ok { l with dq := dqAfterPop lp.dq l.dq, done := enqAt l.done t.dst t })) := by
  cases h : dqHead l.dq with
  | none => exact .inl ⟨rfl, by simp [popOnce, h]⟩
  | some t =>
    refine .inr ⟨t, rfl, ?_⟩
    cases hd : doneFull lp l t.dst <;> simp [popOnce, h, hd]

theorem doneFull_of_unbounded {lp : LinkParams} (h : lp.doneDepth = none) (l : Link) (d : Nat) :
    doneFull lp l d = false := by simp [doneFull, h]

/-- A pop phase writes only the ring and the completed queues. -/
theorem popPhase_frame {lp : LinkParams} {n : Nat} {l l' : Link} (h : popPhase lp n l = .ok l') :
    l' = { l with dq := l'.dq, done := l'.done } := by
  induction n generalizing l with
  | zero => cases h; rfl
  | succ n ih =>
    simp only [popPhase, bind_eq_ok] at h
    obtain ⟨m, h1, h2⟩ := h
    rw [ih h2]
    rcases popOnce_cases lp l with ⟨_, e⟩ | ⟨t, _, ⟨_, e⟩ | ⟨_, e⟩⟩ <;> rw [e] at h1 <;> cases h1 <;> rfl

theorem popPhase_error {lp : LinkParams} {n : Nat} {l : Link} {f : FaultCode} (h : popPhase lp n l = .error f) :
    f = .doneOverflow ∧ lp.doneDepth ≠ none := by
  induction n generalizing l with
  | zero => cases h
  | succ n ih =>
    simp only [popPhase, bind_eq_error] at h
    rcases h with h | ⟨m, _, h⟩
    · rcases popOnce_cases lp l with ⟨_, e⟩ | ⟨t, _, ⟨hd, e⟩ | ⟨_, e⟩⟩ <;> rw [e] at h <;> cases h
      exact ⟨rfl, fun hn => by simp [doneFull_of_unbounded hn] at hd⟩
    · exact ih h

/-! ### The choice of a packet -/

theorem searchOrder_mem {sources start s : Nat} (h : s ∈ searchOrder sources start) : s < sources := by
  simp only [searchOrder, List.mem_map, List.mem_range] at h
  obtain ⟨k, hk, rfl⟩ := h
  exact Nat.mod_lt _ (by omega)

/-- A source that the round-robin search finds exists and has a transaction. -/
theorem nextSource_some {lp : LinkParams} {rr s : Nat} {qs : List (List Txn)} (h : nextSource lp rr qs = some s) :
    s < lp.sources ∧ queueAt qs s ≠ [] := by
  have hm := List.mem_of_find?_eq_some h
  have hp := List.find?_some h
  exact ⟨searchOrder_mem hm, by simpa using hp⟩

theorem scheduleCheck_ok {lp : LinkParams} {t : Txn} (h : lp.badTypeAt = .push) : scheduleCheck lp t = .ok () := by
  simp [scheduleCheck, h]

theorem scheduleCheck_eq_ok {lp : LinkParams} {t : Txn} {u : Unit} (h : scheduleCheck lp t = .ok u) :
    t.badType = false ∨ lp.badTypeAt = .push := by
  unfold scheduleCheck at h
  split at h
  · cases h
  · cases h1 : t.badType <;> cases h2 : lp.badTypeAt <;> simp_all

theorem scheduleCheck_error {lp : LinkParams} {t : Txn} {f : FaultCode} (h : scheduleCheck lp t = .error f) :
    f = .badType ∧ lp.badTypeAt = .schedule := by
  unfold scheduleCheck at h
  split at h
  · rename_i hc; cases h; exact ⟨rfl, hc.2⟩
  · cases h

/-- What a plain link's choice can do: nothing, or the head of a source's queue becomes the packet. -/
theorem selectPlain_eq_ok {lp : LinkParams} {l l' : Link} (h : selectPlain lp l = .ok l') :
    (nextSource lp l.rr l.ready = none ∧ l' = l) ∨
    ∃ s t rest, nextSource lp l.rr l.ready = some s ∧ queueAt l.ready s = t :: rest ∧
      (t.badType = false ∨ lp.badTypeAt = .push) ∧
      l' = { l with
        ready := deqAt l.ready s, rr := s, cur := some { txn := t, left := packetFlits lp t, first := true } } := by
  unfold selectPlain at h
  split at h
  · rename_i hn; cases h; exact .inl ⟨hn, rfl⟩
  · rename_i s hs
    split at h
    · rename_i hq; exact absurd hq (nextSource_some hs).2
    · rename_i t rest hq
      rw [bind_eq_ok] at h
      obtain ⟨u, hc, h⟩ := h
      cases h
      exact .inr ⟨s, t, rest, hs, hq, scheduleCheck_eq_ok hc, rfl⟩

/-- What serving a short transaction can do. -/
theorem serveShort_eq_ok {lp : LinkParams} {l : Link} {r : Option Link} (h : serveShort lp l = .ok r) :
    (nextSource lp l.rr l.readyShort = none ∧ r = none) ∨
    ∃ s t rest, nextSource lp l.rr l.readyShort = some s ∧ queueAt l.readyShort s = t :: rest ∧
      (t.badType = false ∨ lp.badTypeAt = .push) ∧
      r = some (startShort lp { l with readyShort := deqAt l.readyShort s, rr := s } t) := by
  unfold serveShort at h
  split at h
  · rename_i hn; cases h; exact .inl ⟨hn, rfl⟩
  · rename_i s hs
    split at h
    · rename_i hq; exact absurd hq (nextSource_some hs).2
    · rename_i t rest hq
      rw [bind_eq_ok] at h
      obtain ⟨u, hc, h⟩ := h
      cases h
      exact .inr ⟨s, t, rest, hs, hq, scheduleCheck_eq_ok hc, rfl⟩

/-- What serving a long transaction can do. -/
theorem serveLong_eq_some {lp : LinkParams} {l l' : Link} (h : serveLong lp l = some l') :
    ∃ c t, cdqTop lp.cdq l.cdq l.cycle = some c ∧ c.txn = some t ∧
      l' = startLong lp { l with cdq := cdqAfterPop lp.cdq l.cdq } t c.size.toNat := by
  unfold serveLong at h
  split at h
  · cases h
  · rename_i c hc
    split at h
    · cases h
    · rename_i t ht
      cases h
      exact ⟨c, t, hc, ht, rfl⟩

/-- What the choice of the next packet can do to a link, on either kind and direction. -/
theorem selectNext_eq_ok {lp : LinkParams} {l l' : Link} (h : selectNext lp l = .ok l') :
    l' = l ∨
    (lp.kind = .plain ∧ selectPlain lp l = .ok l') ∨
    (lp.kind = .compressed ∧ ∃ l'', serveShort lp l = .ok (some l'') ∧ l' = l'') ∨
    (lp.kind = .compressed ∧ serveLong lp l = some l') := by
  unfold selectNext at h
  split at h
  · rename_i hk; exact .inr (.inl ⟨hk, h⟩)
  · rename_i hk
    split at h
    · simp only [selectDown, bind_eq_ok] at h
      obtain ⟨r, h1, h2⟩ := h
      split at h2
      · rename_i l2
        cases h2
        split at h1
        · exact .inr (.inr (.inl ⟨hk, _, h1, rfl⟩))
        · cases h1
      · split at h2
        · rename_i l2 hl; cases h2; exact .inr (.inr (.inr ⟨hk, hl⟩))
        · split at h2
          · rw [bind_eq_ok] at h2
            obtain ⟨r', h3, h4⟩ := h2
            cases r' with
            | none => cases h4; exact .inl rfl
            | some l3 => cases h4; exact .inr (.inr (.inl ⟨hk, _, h3, rfl⟩))
          · cases h2; exact .inl rfl
    · simp only [selectUp] at h
      split at h
      · rename_i l2 hl; cases h; exact .inr (.inr (.inr ⟨hk, hl⟩))
      · rw [bind_eq_ok] at h
        obtain ⟨r', h3, h4⟩ := h
        cases r' with
        | none => cases h4; exact .inl rfl
        | some l3 => cases h4; exact .inr (.inr (.inl ⟨hk, _, h3, rfl⟩))

/-- The choice of the next packet leaves the ring, the completed queues, the waiting longs and the cycle. -/
theorem selectNext_frame {lp : LinkParams} {l l' : Link} (h : selectNext lp l = .ok l') :
    l'.dq = l.dq ∧ l'.done = l.done ∧ l'.readyLong = l.readyLong ∧ l'.crr = l.crr ∧ l'.cycle = l.cycle := by
  rcases selectNext_eq_ok h with rfl | ⟨_, h⟩ | ⟨_, l'', h, rfl⟩ | ⟨_, h⟩
  · exact ⟨rfl, rfl, rfl, rfl, rfl⟩
  · rcases selectPlain_eq_ok h with ⟨_, rfl⟩ | ⟨s, t, rest, _, _, _, rfl⟩ <;> exact ⟨rfl, rfl, rfl, rfl, rfl⟩
  · rcases serveShort_eq_ok h with ⟨_, h⟩ | ⟨s, t, rest, _, _, _, h⟩ <;> cases h
    exact ⟨rfl, rfl, rfl, rfl, rfl⟩
  · obtain ⟨c, t, _, _, rfl⟩ := serveLong_eq_some h
    exact ⟨rfl, rfl, rfl, rfl, rfl⟩

/-! ### The push phase -/

/-- Slack writes only the ring. -/
theorem pushSlack_frame (lp : LinkParams) (n : Nat) (l : Link) :
    pushSlack lp n l = { l with dq := (pushSlack lp n l).dq } := by
  induction n generalizing l with
  | zero => rfl
  | succ n ih => simp only [pushSlack]; rw [ih]

/-- What finding a packet can do. -/
theorem withPacket_eq_ok {lp : LinkParams} {l l' : Link} (h : withPacket lp l = .ok l') :
    ((∃ c, l.cur = some c) ∧ l' = l) ∨ (l.cur = none ∧ selectNext lp l = .ok l') := by
  unfold withPacket at h
  split at h
  · rename_i c hc; cases h; exact .inl ⟨⟨c, hc⟩, rfl⟩
  · rename_i hc; exact .inr ⟨hc, h⟩

/-- A push phase leaves the completed queues, the waiting longs and the cycle. -/
theorem pushPhase_frame {lp : LinkParams} {n : Nat} {l l' : Link} (h : pushPhase lp n l = .ok l') :
    l'.done = l.done ∧ l'.readyLong = l.readyLong ∧ l'.crr = l.crr ∧ l'.cycle = l.cycle := by
  induction n generalizing l with
  | zero => cases h; exact ⟨rfl, rfl, rfl, rfl⟩
  | succ n ih =>
    simp only [pushPhase, bind_eq_ok] at h
    obtain ⟨m, h1, h2⟩ := h
    have hm : m.done = l.done ∧ m.readyLong = l.readyLong ∧ m.crr = l.crr ∧ m.cycle = l.cycle := by
      rcases withPacket_eq_ok h1 with ⟨_, rfl⟩ | ⟨_, h1⟩
      · exact ⟨rfl, rfl, rfl, rfl⟩
      · exact (selectNext_frame h1).2
    split at h2
    · cases h2; rw [pushSlack_frame]; exact hm
    · exact ih h2 |>.imp (·.trans hm.1) fun h => ⟨h.1.trans hm.2.1, h.2.1.trans hm.2.2.1, h.2.2.trans hm.2.2.2⟩

/-! ### The compression pass and the step -/

/-- Everything a source's transaction in the compression pass can do. -/
theorem compressOne_eq_ok {p : Params} {lp : LinkParams} {s : Nat} {x y : PassState}
    (h : compressOne p lp s x = .ok y) :
    (queueAt x.link.readyLong s = [] ∧ y = x) ∨
    (lp.cdq.cap ≤ x.link.cdq.count ∧ y = x) ∨
    ∃ t rest bits e q, queueAt x.link.readyLong s = t :: rest ∧ x.link.cdq.count < lp.cdq.cap ∧
      compressTxn p x.engine t = .ok (bits, e) ∧
      cdqPush lp.cdq x.link.cdq t (linkSize lp t bits) x.link.cycle = .ok q ∧
      y = { link := { x.link with readyLong := deqAt x.link.readyLong s, cdq := q }, engine := e, last := some s } := by
  unfold compressOne at h
  split at h
  · rename_i hq; cases h; exact .inl ⟨hq, rfl⟩
  · rename_i t rest hq
    split at h
    · rename_i hc
      simp only [bind_eq_ok] at h
      obtain ⟨⟨bits, e⟩, h1, q, h2, h3⟩ := h
      cases h3
      exact .inr (.inr ⟨t, rest, bits, e, q, hq, hc, h1, h2, rfl⟩)
    · cases h; exact .inr (.inl ⟨by omega, rfl⟩)

/-- The engine faults only on a length it does not admit, or when no encoder is named. -/
theorem engineCompress_error {p : Params} {e : Engine} {supplied : Line} {n : Nat} {f : FaultCode}
    (h : engineCompress p e supplied n = .error f) : f = .badLen ∨ (f = .config ∧ p.alg = none) := by
  unfold engineCompress at h
  split at h
  · rename_i ha; cases h; exact .inr ⟨rfl, ha⟩
  · rename_i a ha
    rw [bind_eq_error] at h
    rcases h with h | ⟨_, _, h⟩
    · rcases lineOperand_cases p a supplied n with ⟨_, _, _, e⟩ | ⟨_, e⟩ <;> rw [e] at h <;> cases h
      exact .inl rfl
    · cases h

/-- Two links that agree on all that a compression pass leaves as it is. -/
def samePass (l l' : Link) : Prop :=
  l'.ready = l.ready ∧ l'.readyShort = l.readyShort ∧ l'.done = l.done ∧ l'.dq = l.dq ∧ l'.rr = l.rr ∧
    l'.cur = l.cur ∧ l'.leftover = l.leftover ∧ l'.leftoverNodata = l.leftoverNodata ∧ l'.cycle = l.cycle

theorem samePass_refl (l : Link) : samePass l l := ⟨rfl, rfl, rfl, rfl, rfl, rfl, rfl, rfl, rfl⟩

theorem samePass_trans {a b c : Link} (h : samePass a b) (h' : samePass b c) : samePass a c := by
  unfold samePass at *
  simp_all

theorem compressSource_frame {p : Params} {lp : LinkParams} {s n : Nat} {x y : PassState}
    (h : compressSource p lp s n x = .ok y) : samePass x.link y.link := by
  induction n generalizing x with
  | zero => cases h; exact samePass_refl _
  | succ n ih =>
    simp only [compressSource, bind_eq_ok] at h
    obtain ⟨z, h1, h2⟩ := h
    refine samePass_trans ?_ (ih h2)
    rcases compressOne_eq_ok h1 with ⟨_, rfl⟩ | ⟨_, rfl⟩ | ⟨t, rest, bits, e, q, _, _, _, _, rfl⟩
    · exact samePass_refl _
    · exact samePass_refl _
    · exact ⟨rfl, rfl, rfl, rfl, rfl, rfl, rfl, rfl, rfl⟩

theorem compressSweep_frame {p : Params} {lp : LinkParams} {ss : List Nat} {x y : PassState}
    (h : compressSweep p lp ss x = .ok y) : samePass x.link y.link := by
  induction ss generalizing x with
  | nil => cases h; exact samePass_refl _
  | cons s ss ih =>
    simp only [compressSweep, bind_eq_ok] at h
    obtain ⟨z, h1, h2⟩ := h
    exact samePass_trans (compressSource_frame h1) (ih h2)

/-- A compression pass writes only the waiting longs, the compressed queue and its own cursor. -/
theorem compressionPass_frame {p : Params} {lp : LinkParams} {l l' : Link} {e e' : Engine}
    (h : compressionPass p lp l e = .ok (l', e')) : samePass l l' := by
  simp only [compressionPass, bind_eq_ok] at h
  obtain ⟨x, h1, h2⟩ := h
  have := compressSweep_frame h1
  split at h2 <;> cases h2 <;> exact this

/-- Everything the end-of-step discard can do. -/
theorem discardLeftover_cases (l : Link) :
    (l.cur = none ∧ discardLeftover l = { l with leftover := 0, leftoverNodata := 0 }) ∨
      ((∃ c, l.cur = some c) ∧ discardLeftover l = l) := by
  unfold discardLeftover
  cases h : l.cur with
  | none => exact .inl ⟨rfl, rfl⟩
  | some c => exact .inr ⟨⟨c, rfl⟩, rfl⟩

/-- Everything a step of a link can do, as the order of its parts. -/
theorem linkStep_eq_ok {p : Params} {lp : LinkParams} {l l' : Link} {e e' : Engine} {n : Nat}
    (h : linkStep p lp l e n = .ok (l', e')) :
    (lp.kind = .plain ∧ e' = e ∧ ∃ m, popPhase lp n l = .ok m ∧ pushPhase lp n m = .ok l') ∨
    (lp.kind = .compressed ∧ ∃ m k j, popPhase lp n l = .ok m ∧ l' = tick (discardLeftover j) ∧
      ((lp.compPassFirst = false ∧ pushPhase lp n m = .ok k ∧ compressionPass p lp k e = .ok (j, e')) ∨
        (lp.compPassFirst = true ∧ compressionPass p lp m e = .ok (k, e') ∧ pushPhase lp n k = .ok j))) := by
  unfold linkStep at h
  split at h
  · rename_i hk
    simp only [stepPlain, bind_eq_ok] at h
    obtain ⟨j, ⟨m, h1, h2⟩, h3⟩ := h
    cases h3
    exact .inl ⟨hk, rfl, m, h1, h2⟩
  · rename_i hk
    simp only [stepCompressed, bind_eq_ok] at h
    obtain ⟨m, h1, h2⟩ := h
    split at h2
    · rename_i hc
      simp only [bind_eq_ok] at h2
      obtain ⟨⟨k, e1⟩, h3, j, h4, h5⟩ := h2
      cases h5
      exact .inr ⟨hk, m, k, j, h1, rfl, .inr ⟨hc, h3, h4⟩⟩
    · rename_i hc
      simp only [bind_eq_ok] at h2
      obtain ⟨k, h3, ⟨j, e1⟩, h4, h5⟩ := h2
      cases h5
      exact .inr ⟨hk, m, k, j, h1, rfl, .inl ⟨by simpa using hc, h3, h4⟩⟩

/-! ### Faults -/

/-- Serving a short transaction faults only on the scheduler's own type check. -/
theorem serveShort_error {lp : LinkParams} {l : Link} {f : FaultCode}
    (h : serveShort lp l = .error f) : f = .badType ∧ lp.badTypeAt = .schedule := by
  unfold serveShort at h
  split at h
  · cases h
  · split at h
    · cases h
    · rw [bind_eq_error] at h
      rcases h with h | ⟨_, _, h⟩
      · exact scheduleCheck_error h
      · cases h

/-- The choice of the next packet faults only on the scheduler's own type check. -/
theorem selectNext_error {lp : LinkParams} {l : Link} {f : FaultCode}
    (h : selectNext lp l = .error f) : f = .badType ∧ lp.badTypeAt = .schedule := by
  unfold selectNext at h
  split at h
  · unfold selectPlain at h
    split at h
    · cases h
    · split at h
      · cases h
      · rw [bind_eq_error] at h
        rcases h with h | ⟨_, _, h⟩
        · exact scheduleCheck_error h
        · cases h
  · split at h
    · simp only [selectDown, bind_eq_error] at h
      rcases h with h | ⟨r, _, h⟩
      · split at h
        · exact serveShort_error h
        · cases h
      · split at h
        · cases h
        · split at h
          · cases h
          · split at h
            · rw [bind_eq_error] at h
              rcases h with h | ⟨_, _, h⟩
              · exact serveShort_error h
              · cases h
            · cases h
    · simp only [selectUp] at h
      split at h
      · cases h
      · rw [bind_eq_error] at h
        rcases h with h | ⟨_, _, h⟩
        · exact serveShort_error h
        · cases h

/-- A push phase faults only on the scheduler's own type check. -/
theorem pushPhase_error {lp : LinkParams} {n : Nat} {l : Link} {f : FaultCode}
    (h : pushPhase lp n l = .error f) : f = .badType ∧ lp.badTypeAt = .schedule := by
  induction n generalizing l with
  | zero => cases h
  | succ n ih =>
    simp only [pushPhase, bind_eq_error] at h
    rcases h with h | ⟨m, _, h⟩
    · unfold withPacket at h
      split at h
      · cases h
      · exact selectNext_error h
    · split at h
      · cases h
      · exact ih h

/-- A link's compression faults only as the engine does, or on a length other than 32 and 128. -/
theorem compressTxn_error {p : Params} {e : Engine} {t : Txn} {f : FaultCode}
    (h : compressTxn p e t = .error f) : f = .badLen ∨ (f = .config ∧ p.alg = none) := by
  unfold compressTxn at h
  split at h
  · exact engineCompress_error h
  · cases h; exact .inl rfl

theorem compressOne_error {p : Params} {lp : LinkParams} {s : Nat} {x : PassState} {f : FaultCode}
    (h : compressOne p lp s x = .error f) : f = .badLen ∨ (f = .config ∧ p.alg = none) := by
  unfold compressOne at h
  split at h
  · cases h
  · split at h
    · rename_i hc
      simp only [bind_eq_error] at h
      rcases h with h | ⟨r, _, h | ⟨q, _, h⟩⟩
      · exact compressTxn_error h
      · rename_i t _ _ _
        rcases cdqPush_cases lp.cdq x.link.cdq t (linkSize lp t r.1) x.link.cycle with ⟨h', _⟩ | ⟨_, h'⟩
        · omega
        · rw [h'] at h; cases h
      · cases h
    · cases h

theorem compressSource_error {p : Params} {lp : LinkParams} {s n : Nat} {x : PassState} {f : FaultCode}
    (h : compressSource p lp s n x = .error f) : f = .badLen ∨ (f = .config ∧ p.alg = none) := by
  induction n generalizing x with
  | zero => cases h
  | succ n ih =>
    simp only [compressSource, bind_eq_error] at h
    rcases h with h | ⟨m, _, h⟩
    · exact compressOne_error h
    · exact ih h

theorem compressSweep_error {p : Params} {lp : LinkParams} {ss : List Nat} {x : PassState} {f : FaultCode}
    (h : compressSweep p lp ss x = .error f) : f = .badLen ∨ (f = .config ∧ p.alg = none) := by
  induction ss generalizing x with
  | nil => cases h
  | cons s ss ih =>
    simp only [compressSweep, bind_eq_error] at h
    rcases h with h | ⟨m, _, h⟩
    · exact compressSource_error h
    · exact ih h

/-- A compression pass faults only as the engine does; the compressed queue is never full when it is pushed to. -/
theorem compressionPass_error {p : Params} {lp : LinkParams} {l : Link} {e : Engine} {f : FaultCode}
    (h : compressionPass p lp l e = .error f) : f = .badLen ∨ (f = .config ∧ p.alg = none) := by
  simp only [compressionPass, bind_eq_error] at h
  rcases h with h | ⟨m, _, h⟩
  · exact compressSweep_error h
  · split at h <;> cases h

end Sys2Proof.Machine
end

