-- ==== Sys2Proof/Laws/PerInstr.lean ====
section
/-! SUPPORT. One lemma per command: bits 31 to 24 of its encoding are the fixed bits of its row of
spec/opcode_table.json (spec/30_encoding.md R83, R86). -/

namespace Sys2Proof.Laws

/-- The fixed byte of a command's row: unit and verb (R83). -/
def rowByte : Instr → Nat
  | .sysReset => 0x00
  | .sysRdfault => 0x01
  | .mpcCompress _ => 0x10
  | .mpcTotu => 0x11
  | .mpcTotc => 0x12
  | .bdiCompress _ => 0x20
  | .bdiTotu => 0x21
  | .bdiTotc => 0x22
  | .bdiRdstate => 0x23
  | .fpcCompress _ => 0x30
  | .fpcTotu => 0x31
  | .fpcTotc => 0x32
  | .bpcCompress _ => 0x40
  | .bpcTotu => 0x41
  | .bpcTotc => 0x42
  | .cpackCompress _ => 0x50
  | .cpackTotu => 0x51
  | .cpackTotc => 0x52
  | .sc2Compress _ => 0x60
  | .sc2Totu => 0x61
  | .sc2Totc => 0x62
  | .engCompress _ => 0x70
  | .engTotu => 0x71
  | .engTotc => 0x72
  | .dqPush _ _ _ => 0x80
  | .dqPop => 0x81
  | .cdqPush _ => 0x90
  | .cdqTop => 0x91
  | .cdqPop => 0x92
  | .cdqFull => 0x93
  | .lnkPush _ => 0xA0
  | .lnkFull _ => 0xA1
  | .lnkStep _ => 0xA2
  | .lnkEmpty _ => 0xA3
  | .lnkTop _ => 0xA4
  | .lnkPop _ => 0xA5
  | .mldnPush _ => 0xB0
  | .mldnFull _ => 0xB1
  | .mldnStep => 0xB2
  | .mldnEmpty _ => 0xB3
  | .mldnTop _ => 0xB4
  | .mldnPop _ => 0xB5
  | .mlupPush _ => 0xC0
  | .mlupFull _ => 0xC1
  | .mlupStep => 0xC2
  | .mlupEmpty _ => 0xC3
  | .mlupTop _ => 0xC4
  | .mlupPop _ => 0xC5

/-- A well-formed command's word carries the fixed byte of its row in bits 31 to 24. -/
def OpcodeBits.Statement (i : Instr) : Prop := i.wf = true → (encode i).toNat / 2 ^ 24 = rowByte i

theorem OpcodeBits.sysReset : OpcodeBits.Statement .sysReset :=
  fun _ => cmdWord_opcode (by decide) (by decide) (by decide) (by decide)

theorem OpcodeBits.sysRdfault : OpcodeBits.Statement .sysRdfault :=
  fun _ => cmdWord_opcode (by decide) (by decide) (by decide) (by decide)

theorem OpcodeBits.mpcCompress (byteCount : Nat) : OpcodeBits.Statement (.mpcCompress byteCount) :=
  fun h => cmdWord_opcode (by decide) (by decide) (by decide) (of_decide_eq_true h)

theorem OpcodeBits.mpcTotu : OpcodeBits.Statement .mpcTotu :=
  fun _ => cmdWord_opcode (by decide) (by decide) (by decide) (by decide)

theorem OpcodeBits.mpcTotc : OpcodeBits.Statement .mpcTotc :=
  fun _ => cmdWord_opcode (by decide) (by decide) (by decide) (by decide)

theorem OpcodeBits.bdiCompress (byteCount : Nat) : OpcodeBits.Statement (.bdiCompress byteCount) :=
  fun h => cmdWord_opcode (by decide) (by decide) (by decide) (of_decide_eq_true h)

theorem OpcodeBits.bdiTotu : OpcodeBits.Statement .bdiTotu :=
  fun _ => cmdWord_opcode (by decide) (by decide) (by decide) (by decide)

theorem OpcodeBits.bdiTotc : OpcodeBits.Statement .bdiTotc :=
  fun _ => cmdWord_opcode (by decide) (by decide) (by decide) (by decide)

theorem OpcodeBits.bdiRdstate : OpcodeBits.Statement .bdiRdstate :=
  fun _ => cmdWord_opcode (by decide) (by decide) (by decide) (by decide)

theorem OpcodeBits.fpcCompress (byteCount : Nat) : OpcodeBits.Statement (.fpcCompress byteCount) :=
  fun h => cmdWord_opcode (by decide) (by decide) (by decide) (of_decide_eq_true h)

theorem OpcodeBits.fpcTotu : OpcodeBits.Statement .fpcTotu :=
  fun _ => cmdWord_opcode (by decide) (by decide) (by decide) (by decide)

theorem OpcodeBits.fpcTotc : OpcodeBits.Statement .fpcTotc :=
  fun _ => cmdWord_opcode (by decide) (by decide) (by decide) (by decide)

theorem OpcodeBits.bpcCompress (byteCount : Nat) : OpcodeBits.Statement (.bpcCompress byteCount) :=
  fun h => cmdWord_opcode (by decide) (by decide) (by decide) (of_decide_eq_true h)

theorem OpcodeBits.bpcTotu : OpcodeBits.Statement .bpcTotu :=
  fun _ => cmdWord_opcode (by decide) (by decide) (by decide) (by decide)

theorem OpcodeBits.bpcTotc : OpcodeBits.Statement .bpcTotc :=
  fun _ => cmdWord_opcode (by decide) (by decide) (by decide) (by decide)

theorem OpcodeBits.cpackCompress (byteCount : Nat) : OpcodeBits.Statement (.cpackCompress byteCount) :=
  fun h => cmdWord_opcode (by decide) (by decide) (by decide) (of_decide_eq_true h)

theorem OpcodeBits.cpackTotu : OpcodeBits.Statement .cpackTotu :=
  fun _ => cmdWord_opcode (by decide) (by decide) (by decide) (by decide)

theorem OpcodeBits.cpackTotc : OpcodeBits.Statement .cpackTotc :=
  fun _ => cmdWord_opcode (by decide) (by decide) (by decide) (by decide)

theorem OpcodeBits.sc2Compress (byteCount : Nat) : OpcodeBits.Statement (.sc2Compress byteCount) :=
  fun h => cmdWord_opcode (by decide) (by decide) (by decide) (of_decide_eq_true h)

theorem OpcodeBits.sc2Totu : OpcodeBits.Statement .sc2Totu :=
  fun _ => cmdWord_opcode (by decide) (by decide) (by decide) (by decide)

theorem OpcodeBits.sc2Totc : OpcodeBits.Statement .sc2Totc :=
  fun _ => cmdWord_opcode (by decide) (by decide) (by decide) (by decide)

theorem OpcodeBits.engCompress (byteCount : Nat) : OpcodeBits.Statement (.engCompress byteCount) :=
  fun h => cmdWord_opcode (by decide) (by decide) (by decide) (of_decide_eq_true h)

theorem OpcodeBits.engTotu : OpcodeBits.Statement .engTotu :=
  fun _ => cmdWord_opcode (by decide) (by decide) (by decide) (by decide)

theorem OpcodeBits.engTotc : OpcodeBits.Statement .engTotc :=
  fun _ => cmdWord_opcode (by decide) (by decide) (by decide) (by decide)

theorem OpcodeBits.dqPush (head : Bool) (tail : Bool) (hasTxn : Bool) :
    OpcodeBits.Statement (.dqPush head tail hasTxn) :=
  fun _ => cmdWord_opcode (by decide) (by decide) (by decide) (dqPushArg_lt head tail hasTxn)

theorem OpcodeBits.dqPop : OpcodeBits.Statement .dqPop :=
  fun _ => cmdWord_opcode (by decide) (by decide) (by decide) (by decide)

theorem OpcodeBits.cdqPush (size : Nat) : OpcodeBits.Statement (.cdqPush size) :=
  fun h => cmdWord_opcode (by decide) (by decide) (by decide) (of_decide_eq_true h)

theorem OpcodeBits.cdqTop : OpcodeBits.Statement .cdqTop :=
  fun _ => cmdWord_opcode (by decide) (by decide) (by decide) (by decide)

theorem OpcodeBits.cdqPop : OpcodeBits.Statement .cdqPop :=
  fun _ => cmdWord_opcode (by decide) (by decide) (by decide) (by decide)

theorem OpcodeBits.cdqFull : OpcodeBits.Statement .cdqFull :=
  fun _ => cmdWord_opcode (by decide) (by decide) (by decide) (by decide)

theorem OpcodeBits.lnkPush (src : Nat) : OpcodeBits.Statement (.lnkPush src) :=
  fun h => cmdWord_opcode (by decide) (by decide) (of_decide_eq_true h) (by decide)

theorem OpcodeBits.lnkFull (src : Nat) : OpcodeBits.Statement (.lnkFull src) :=
  fun h => cmdWord_opcode (by decide) (by decide) (of_decide_eq_true h) (by decide)

theorem OpcodeBits.lnkStep (nFlits : Nat) : OpcodeBits.Statement (.lnkStep nFlits) :=
  fun h => cmdWord_opcode (by decide) (by decide) (by decide) (of_decide_eq_true h)

theorem OpcodeBits.lnkEmpty (dst : Nat) : OpcodeBits.Statement (.lnkEmpty dst) :=
  fun h => cmdWord_opcode (by decide) (by decide) (of_decide_eq_true h) (by decide)

theorem OpcodeBits.lnkTop (dst : Nat) : OpcodeBits.Statement (.lnkTop dst) :=
  fun h => cmdWord_opcode (by decide) (by decide) (of_decide_eq_true h) (by decide)

theorem OpcodeBits.lnkPop (dst : Nat) : OpcodeBits.Statement (.lnkPop dst) :=
  fun h => cmdWord_opcode (by decide) (by decide) (of_decide_eq_true h) (by decide)

theorem OpcodeBits.mldnPush (src : Nat) : OpcodeBits.Statement (.mldnPush src) :=
  fun h => cmdWord_opcode (by decide) (by decide) (of_decide_eq_true h) (by decide)

theorem OpcodeBits.mldnFull (src : Nat) : OpcodeBits.Statement (.mldnFull src) :=
  fun h => cmdWord_opcode (by decide) (by decide) (of_decide_eq_true h) (by decide)

theorem OpcodeBits.mldnStep : OpcodeBits.Statement .mldnStep :=
  fun _ => cmdWord_opcode (by decide) (by decide) (by decide) (by decide)

theorem OpcodeBits.mldnEmpty (dst : Nat) : OpcodeBits.Statement (.mldnEmpty dst) :=
  fun h => cmdWord_opcode (by decide) (by decide) (of_decide_eq_true h) (by decide)

theorem OpcodeBits.mldnTop (dst : Nat) : OpcodeBits.Statement (.mldnTop dst) :=
  fun h => cmdWord_opcode (by decide) (by decide) (of_decide_eq_true h) (by decide)

theorem OpcodeBits.mldnPop (dst : Nat) : OpcodeBits.Statement (.mldnPop dst) :=
  fun h => cmdWord_opcode (by decide) (by decide) (of_decide_eq_true h) (by decide)

theorem OpcodeBits.mlupPush (src : Nat) : OpcodeBits.Statement (.mlupPush src) :=
  fun h => cmdWord_opcode (by decide) (by decide) (of_decide_eq_true h) (by decide)

theorem OpcodeBits.mlupFull (src : Nat) : OpcodeBits.Statement (.mlupFull src) :=
  fun h => cmdWord_opcode (by decide) (by decide) (of_decide_eq_true h) (by decide)

theorem OpcodeBits.mlupStep : OpcodeBits.Statement .mlupStep :=
  fun _ => cmdWord_opcode (by decide) (by decide) (by decide) (by decide)

theorem OpcodeBits.mlupEmpty (dst : Nat) : OpcodeBits.Statement (.mlupEmpty dst) :=
  fun h => cmdWord_opcode (by decide) (by decide) (of_decide_eq_true h) (by decide)

theorem OpcodeBits.mlupTop (dst : Nat) : OpcodeBits.Statement (.mlupTop dst) :=
  fun h => cmdWord_opcode (by decide) (by decide) (of_decide_eq_true h) (by decide)

theorem OpcodeBits.mlupPop (dst : Nat) : OpcodeBits.Statement (.mlupPop dst) :=
  fun h => cmdWord_opcode (by decide) (by decide) (of_decide_eq_true h) (by decide)

end Sys2Proof.Laws
end

