-- ==== Sys2Proof/Tests/Slice0.lean ====
section
/-! SUPPORT. Our own tests: ill-formed terms, decoding of every row, one step per command on the vectors of
spec/95_test_vectors.md, and the witnesses of the statements' hypotheses. -/

namespace Sys2Proof.Tests

open Sys2Proof.Machine Sys2Proof.Claims

set_option Elab.async false

/-! ### WellFormed -/

/-- One ill-formed term for every command with an operand: `arg` past 16 bits, `idx` past 8 bits (R81). -/
theorem test_wellFormed_refuses :
    ([.mpcCompress 65536, .bdiCompress 65536, .fpcCompress 65536, .bpcCompress 65536, .cpackCompress 65536,
      .sc2Compress 65536, .engCompress 65536, .cdqPush 65536, .lnkStep 65536] : List Instr).all (!·.wf) = true := by
  decide

theorem test_wellFormed_refuses_idx :
    ([.lnkPush 256, .lnkFull 256, .lnkEmpty 256, .lnkTop 256, .lnkPop 256, .mldnPush 256, .mldnFull 256,
      .mldnEmpty 256, .mldnTop 256, .mldnPop 256, .mlupPush 256, .mlupFull 256, .mlupEmpty 256, .mlupTop 256,
      .mlupPop 256] : List Instr).all (!·.wf) = true := by
  decide

theorem test_argFits_refuses : argFits 65536 = false ∧ argFits 65535 = true := by decide
theorem test_idxFits_refuses : idxFits 256 = false ∧ idxFits 255 = true := by decide

/-! ### Decode: unit, verb, idx, arg of 30_encoding.md R81, the rows of R83 -/

theorem test_decode_sys :
    decode 0b0000_0000_00000000_0000000000000000 = .ok .sysReset ∧
      decode 0b0000_0001_00000000_0000000000000000 = .ok .sysRdfault := by decide

theorem test_decode_mpc :
    decode 0b0001_0000_00000000_0000000000100000 = .ok (.mpcCompress 32) ∧
      decode 0b0001_0001_00000000_0000000000000000 = .ok .mpcTotu ∧
      decode 0b0001_0010_00000000_0000000000000000 = .ok .mpcTotc := by decide

theorem test_decode_bdi :
    decode 0b0010_0000_00000000_0000000010000000 = .ok (.bdiCompress 128) ∧
      decode 0b0010_0001_00000000_0000000000000000 = .ok .bdiTotu ∧
      decode 0b0010_0010_00000000_0000000000000000 = .ok .bdiTotc ∧
      decode 0b0010_0011_00000000_0000000000000000 = .ok .bdiRdstate := by decide

theorem test_decode_fpc :
    decode 0b0011_0000_00000000_0000000001000000 = .ok (.fpcCompress 64) ∧
      decode 0b0011_0001_00000000_0000000000000000 = .ok .fpcTotu ∧
      decode 0b0011_0010_00000000_0000000000000000 = .ok .fpcTotc := by decide

theorem test_decode_bpc :
    decode 0b0100_0000_00000000_0000000000000100 = .ok (.bpcCompress 4) ∧
      decode 0b0100_0001_00000000_0000000000000000 = .ok .bpcTotu ∧
      decode 0b0100_0010_00000000_0000000000000000 = .ok .bpcTotc := by decide

theorem test_decode_cpack :
    decode 0b0101_0000_10100101_0000000000010100 = .ok (.cpackCompress 20) ∧
      decode 0b0101_0001_00000000_0000000000000000 = .ok .cpackTotu ∧
      decode 0b0101_0010_00000000_0000000000000000 = .ok .cpackTotc := by decide

theorem test_decode_sc2 :
    decode 0b0110_0000_00000000_0000000000100000 = .ok (.sc2Compress 32) ∧
      decode 0b0110_0001_00000000_0000000000000000 = .ok .sc2Totu ∧
      decode 0b0110_0010_00000000_0000000000000000 = .ok .sc2Totc := by decide

theorem test_decode_eng :
    decode 0b0111_0000_00000000_1000000000000001 = .ok (.engCompress 32769) ∧
      decode 0b0111_0001_00000000_0000000000000000 = .ok .engTotu ∧
      decode 0b0111_0010_00000000_0000000000000000 = .ok .engTotc := by decide

theorem test_decode_dq :
    decode 0b1000_0000_00000000_0000000000000001 = .ok (.dqPush false true false) ∧
      decode 0b1000_0000_00000000_0000000000000010 = .ok (.dqPush true false false) ∧
      decode 0b1000_0000_00000000_0000000000000100 = .ok (.dqPush false false true) ∧
      decode 0b1000_0001_00000000_0000000000000000 = .ok .dqPop := by decide

theorem test_decode_cdq :
    decode 0b1001_0000_00000000_0000000001100100 = .ok (.cdqPush 100) ∧
      decode 0b1001_0001_00000000_0000000000000000 = .ok .cdqTop ∧
      decode 0b1001_0010_00000000_0000000000000000 = .ok .cdqPop ∧
      decode 0b1001_0011_00000000_0000000000000000 = .ok .cdqFull := by decide

theorem test_decode_lnk :
    decode 0b1010_0000_00000001_0000000000000000 = .ok (.lnkPush 1) ∧
      decode 0b1010_0001_10000000_0000000000000000 = .ok (.lnkFull 128) ∧
      decode 0b1010_0010_00000000_0000000000000010 = .ok (.lnkStep 2) ∧
      decode 0b1010_0011_00000011_0000000000000000 = .ok (.lnkEmpty 3) ∧
      decode 0b1010_0100_00000100_0000000000000000 = .ok (.lnkTop 4) ∧
      decode 0b1010_0101_00000101_0000000000000000 = .ok (.lnkPop 5) := by decide

theorem test_decode_mldn :
    decode 0b1011_0000_00000001_0000000000000000 = .ok (.mldnPush 1) ∧
      decode 0b1011_0001_00000010_0000000000000000 = .ok (.mldnFull 2) ∧
      decode 0b1011_0010_00000000_0000000000000111 = .ok .mldnStep ∧
      decode 0b1011_0011_00000011_0000000000000000 = .ok (.mldnEmpty 3) ∧
      decode 0b1011_0100_00000100_0000000000000000 = .ok (.mldnTop 4) ∧
      decode 0b1011_0101_00000101_0000000000000000 = .ok (.mldnPop 5) := by decide

theorem test_decode_mlup :
    decode 0b1100_0000_00000001_0000000000000000 = .ok (.mlupPush 1) ∧
      decode 0b1100_0001_00000010_0000000000000000 = .ok (.mlupFull 2) ∧
      decode 0b1100_0010_00000000_0000000000000000 = .ok .mlupStep ∧
      decode 0b1100_0011_00000011_0000000000000000 = .ok (.mlupEmpty 3) ∧
      decode 0b1100_0100_00000100_0000000000000000 = .ok (.mlupTop 4) ∧
      decode 0b1100_0101_11111111_0000000000000000 = .ok (.mlupPop 255) := by decide

/-- 95_test_vectors.md V-X1, V-X2, V-X3. -/
theorem test_decode_refuses :
    decode 0xD0000000 = .error (.reservedUnit 13) ∧ decode 0x33000000 = .error (.reservedVerb 3 3) ∧
      decode 0xA6000000 = .error (.reservedVerb 10 6) ∧ decode 0x02000000 = .error (.reservedVerb 0 2) := by decide

/-! ### Helpers -/

/-- The state after a command. -/
def after (i : Instr) (s : State) : State :=
  match exec i s with
  | .next t => t
  | _ => s

/-- The state after a step. -/
def afterStep (s : State) : State :=
  match step s with
  | .next t => t
  | _ => s

/-- Does an outcome have a next state? -/
def completes (o : Host.Outcome State Fault Refusal) : Bool :=
  match o with
  | .next _ => true
  | _ => false

/-- A line from byte values. -/
def bytes (l : List Nat) : Line := l.map (BitVec.ofNat 8)

/-- A line from 4-byte little-endian words. -/
def words (l : List Nat) : Line :=
  l.flatMap fun w => bytes [w % 256, w / 256 % 256, w / 65536 % 256, w / 16777216]

/-- A line from 8-byte little-endian words. -/
def words8 (l : List Nat) : Line := l.flatMap fun w => words [w % 2 ^ 32, w / 2 ^ 32]

/-- Reset with a line on OP_LINE. -/
def withLine (l : Line) : State := { State.reset with opLine := l }

/-- Reset with a transaction on OP_TXN. -/
def withTxn (t : Txn) : State := { State.reset with opTxn := t }

/-- A short transaction (ReadRequest) and a long one (WriteRequest of 32 bytes), with a name to tell them apart. -/
def short (id dst : Nat) : Txn := { type := 0, len := 0, payload := [], dst := dst, id := id }
def long (id dst : Nat) : Txn := { type := 2, len := 32, payload := List.replicate 32 0, dst := dst, id := id }

/-! ### One step per command -/

/-- V-X9; V-X7. -/
theorem test_sysReset_clears :
    (after .sysReset { State.reset with fault := 2, cpackTot := { unc := 9, cmp := 9 } }).fault = 0 ∧
      (after .sysReset { State.reset with fault := 2, cpackTot := { unc := 9, cmp := 9 } }).cpackTot.unc = 0 := by
  decide +kernel
theorem test_sysReset_badConfig :
    (after .sysReset
      (State.resetFor { exampleParams with lnk := { examplePlainLink with flitBits := 0 } })).fault = 8 := by
  decide +kernel

/-- 60_exceptions.md R351. -/
theorem test_sysRdfault : (after .sysRdfault (after (.cpackCompress 6) State.reset)).res = 2 := by decide +kernel

/-- V-M2, V-M11 under cfgA. -/
theorem test_mpcCompress_rising : (after (.mpcCompress 32) (withLine (bytes (List.range 32)))).res = 43 := by
  decide +kernel
theorem test_mpcCompress_fallsBack :
    (after (.mpcCompress 32)
      (withLine (bytes ((List.range 32).map fun i => 73 * i * i + 19 * i + 5)))).res = 258 := by
  decide +kernel
theorem test_mpcTotu :
    (after .mpcTotu { State.reset with mpcTot := { unc := 256, cmp := 43 } }).res64 = 256 := by decide +kernel
theorem test_mpcTotc :
    (after .mpcTotc { State.reset with mpcTot := { unc := 256, cmp := 43 } }).res64 = 43 := by decide +kernel

/-- V-B8; V-B20, the tie. -/
theorem test_bdiCompress_deltas :
    (after (.bdiCompress 32) (withLine (words8 [0x1000, 0x1001, 0x1002, 0x1003]))).res = 72 := by decide +kernel
theorem test_bdiCompress_tie :
    (after (.bdiCompress 32)
      (withLine (words8 [0x200, 0x0012345600000000, 0x0012345600100000, 5]))).bdiState = 3 := by decide +kernel
theorem test_bdiTotu :
    (after .bdiTotu { State.reset with bdiTot := { unc := 512, cmp := 272 } }).res64 = 512 := by decide +kernel
theorem test_bdiTotc :
    (after .bdiTotc { State.reset with bdiTot := { unc := 512, cmp := 272 } }).res64 = 272 := by decide +kernel
theorem test_bdiRdstate : (after .bdiRdstate State.reset).res = 8 := by decide +kernel

/-- V-F3, V-F10. -/
theorem test_fpcCompress_mixed :
    (after (.fpcCompress 32)
      (withLine (words [7, 0, 0, 0xFFFFFFF8, 0, 8, 0x80, 0x12340000]))).res = 69 := by decide +kernel
theorem test_fpcCompress_bounds :
    (after (.fpcCompress 32)
      (withLine (words [0xFFFF8000, 0x00007FFF, 0x00800080, 0xFF80FF80, 0x00010000, 0xFFFFFF7F, 0x7F7F7F7F,
        0x00000100]))).res = 160 := by decide +kernel
theorem test_fpcTotu :
    (after .fpcTotu { State.reset with fpcTot := { unc := 256, cmp := 280 } }).res64 = 256 := by decide +kernel
theorem test_fpcTotc :
    (after .fpcTotc { State.reset with fpcTot := { unc := 256, cmp := 280 } }).res64 = 280 := by decide +kernel

/-- V-P13, V-P17. -/
theorem test_bpcCompress_single :
    (after (.bpcCompress 32) (withLine (words [0, 0, 0, 1, 0, 0, 0, 0]))).res = 30 := by decide +kernel
theorem test_bpcCompress_zeroDbp :
    (after (.bpcCompress 32) (withLine (words [0, 2, 0, 2, 0, 2, 0, 2]))).res = 79 := by decide +kernel
theorem test_bpcTotu :
    (after .bpcTotu { State.reset with bpcTot := { unc := 256, cmp := 104 } }).res64 = 256 := by decide +kernel
theorem test_bpcTotc :
    (after .bpcTotc { State.reset with bpcTot := { unc := 256, cmp := 104 } }).res64 = 104 := by decide +kernel

/-- V-C4; V-C7, shadowing. -/
theorem test_cpackCompress_prefixes :
    (after (.cpackCompress 16)
      (withLine (bytes [0x11, 0x22, 0x33, 0x44, 0x11, 0x22, 0x33, 0x44, 0x11, 0x22, 0x33, 0x55,
        0x11, 0x22, 0x66, 0x77]))).res = 80 := by decide +kernel
theorem test_cpackCompress_shadow :
    (after (.cpackCompress 8)
      (withLine (bytes [0xAA, 0xBB, 0, 0, 0xAA, 0xBB, 0xCC, 0xDD]))).res = 34 + 24 := by decide +kernel
theorem test_cpackTotu :
    (after .cpackTotu { State.reset with cpackTot := { unc := 416, cmp := 170 } }).res64 = 416 := by decide +kernel
theorem test_cpackTotc :
    (after .cpackTotc { State.reset with cpackTot := { unc := 416, cmp := 170 } }).res64 = 170 := by decide +kernel

/-- V-S1: the second call builds the table; a call of the steady phase. -/
theorem test_sc2Compress_builds :
    (after (.sc2Compress 32)
      { withLine (words [1, 1, 2, 2, 5, 5, 5, 5]) with
        sc2 := { calls := 1, phase := .sampling, freq := [(1, 4), (2, 2), (3, 1), (4, 1)], codelen := [] } }).sc2
      = { calls := 2, phase := .steady, freq := [], codelen := [(1, 2), (2, 2), (3, 3), (4, 3), (5, 2)] } := by
  decide +kernel
theorem test_sc2Compress_steady :
    (after (.sc2Compress 32)
      { withLine (words [1, 2, 3, 4, 5, 6, 7, 8]) with
        sc2 :=
          { calls := 2, phase := .steady, freq := [],
            codelen := [(1, 2), (2, 2), (3, 3), (4, 3), (5, 2)] } }).res = 111 := by decide +kernel
theorem test_sc2Totu :
    (after .sc2Totu { State.reset with sc2Tot := { unc := 1536, cmp := 937 } }).res64 = 1536 := by decide +kernel
theorem test_sc2Totc :
    (after .sc2Totc { State.reset with sc2Tot := { unc := 1536, cmp := 937 } }).res64 = 937 := by decide +kernel

/-- V-F3 on the engine of an instance with ALG = FPC; V-C4 on one with ALG = CPACK. -/
theorem test_engCompress_fpc :
    (after (.engCompress 32)
      (withLine (words [7, 0, 0, 0xFFFFFFF8, 0, 8, 0x80, 0x12340000]))).engine.tot.cmp = 69 := by decide +kernel
theorem test_engCompress_cpack :
    (after (.engCompress 4)
      { State.resetFor { exampleParams with alg := some .cpack } with
        opLine := bytes [0x11, 0x22, 0x33, 0x44] }).engine.dict.getD 15 { b0 := 0, b1 := 0, b2 := 0, b3 := 0 }
      = { b0 := 0x11, b1 := 0x22, b2 := 0x33, b3 := 0x44 } := by decide +kernel
/-- A state whose engine has totals. -/
def withEngineTotals : State :=
  { State.reset with engine := { State.reset.engine with tot := { unc := 256, cmp := 69 } } }
theorem test_engTotu : (after .engTotu withEngineTotals).res64 = 256 := by decide +kernel
theorem test_engTotc : (after .engTotc withEngineTotals).res64 = 69 := by decide +kernel

/-- V-Q2 with DQ_LATENCY 2: the slot at `wr` and the pointer. -/
theorem test_dqPush :
    (after (.dqPush true true true) (withTxn (short 7 0))).dq.slots.getD 2 Slot.empty
        = { txn := some (short 7 0), head := true, tail := true } ∧
      (after (.dqPush true true true) (withTxn (short 7 0))).dq.wr = 3 := by decide +kernel

/-- A ring whose next slot is given. -/
def withHead (f : Slot) : State := { State.reset with dq := { slots := List.replicate 4 f, rd := 3, wr := 1 } }
/-- R242: a tail slot is returned; V-Q8: a tail flag on an empty slot returns nothing. -/
theorem test_dqPop_tail :
    (after .dqPop (withHead { txn := some (short 7 0), head := false, tail := true })).resTxn = some (short 7 0) ∧
      (after .dqPop (withHead { txn := some (short 7 0), head := false, tail := true })).dq.rd = 0 := by
  decide +kernel
theorem test_dqPop_emptyTail :
    (after .dqPop (withHead { txn := none, head := false, tail := true })).resValid = false := by decide +kernel

/-- V-Q4: the state after `cdq.push t0, 100` at now = 5. -/
def withEntry (now : Word64) : State :=
  { after (.cdqPush 100) { withTxn (short 7 0) with opNow := 5 } with opNow := now }
theorem test_cdqPush : (withEntry 5).cdq.count = 1 ∧ (withEntry 5).cdq.wr = 1 := by decide +kernel
theorem test_cdqTop_early : (after .cdqTop (withEntry 7)).resValid = false := by decide +kernel
theorem test_cdqTop_due :
    (after .cdqTop (withEntry 8)).resTxn = some (short 7 0) ∧ (after .cdqTop (withEntry 8)).res = 100 := by
  decide +kernel
theorem test_cdqPop : (after .cdqPop (withEntry 9)).cdq.count = 0 := by decide +kernel
theorem test_cdqPop_empty : (after .cdqPop State.reset).cdq = State.reset.cdq := by decide +kernel
theorem test_cdqFull : (after .cdqFull State.reset).res = 0 := by decide +kernel
/-- V-Q5: a queue with `count` = cap. -/
def withFullCdq : State := { State.reset with cdq := { State.reset.cdq with count := 4 } }
theorem test_cdqFull_full : (after .cdqFull withFullCdq).res = 1 := by decide +kernel
theorem test_cdqPush_full : (after (.cdqPush 30) withFullCdq).fault = 6 := by decide +kernel

/-- V-L4: with type 5 and a bad destination the type is tested first; a good push. -/
theorem test_lnkPush_badType : (after (.lnkPush 0) (withTxn { short 7 2 with type := 5 })).fault = 3 := by
  decide +kernel
theorem test_lnkPush : (after (.lnkPush 1) (withTxn (short 7 0))).lnk.ready = [[], [short 7 0]] := by decide +kernel
/-- A plain link with the four transactions of V-L2, before a step from the given pointers. -/
def loaded (rd wr rr : Nat) (a b : List Txn) : State :=
  { State.reset with
    lnk :=
      { State.reset.lnk with
        ready := [a, b], rr := rr, dq := { State.reset.lnk.dq with rd := rd, wr := wr } } }
theorem test_lnkFull : (after (.lnkFull 1) (loaded 0 2 0 [] (List.replicate 4 (short 7 0)))).res = 1 := by
  decide +kernel
/-- V-L2, step 4: b1 has three flits, the first is pushed. -/
theorem test_lnkStep_packet :
    (after (.lnkStep 1) (loaded 3 5 1 [] [long 9 1])).lnk.cur
      = some { txn := long 9 1, left := 2, first := false } := by decide +kernel
theorem test_lnkStep_pointers :
    (after (.lnkStep 1) (loaded 3 5 1 [] [long 9 1])).lnk.dq.rd = 4 ∧
      (after (.lnkStep 1) (loaded 3 5 1 [] [long 9 1])).lnk.dq.wr = 0 := by decide +kernel
/-- A plain link with delivered transactions. -/
def delivered2 : State := { State.reset with lnk := { State.reset.lnk with done := [[short 7 0, short 8 0], []] } }
theorem test_lnkEmpty : (after (.lnkEmpty 0) delivered2).res = 0 ∧ (after (.lnkEmpty 1) delivered2).res = 1 := by
  decide +kernel
theorem test_lnkTop : (after (.lnkTop 0) delivered2).resTxn = some (short 7 0) := by decide +kernel
theorem test_lnkPop : (after (.lnkPop 0) delivered2).lnk.done = [[short 8 0], []] := by decide +kernel

/-- 48_compressed_link.md R291: a WriteRequest is long. -/
theorem test_mldnPush_long : (after (.mldnPush 0) (withTxn (long 9 0))).dn.readyLong = [[long 9 0], []] := by
  decide +kernel
theorem test_mldnFull : (after (.mldnFull 0) State.reset).res = 0 := by decide +kernel
/-- R332 with the bandwidth 1.5 of program 3: the half is carried, and a step compresses a waiting long. -/
def withBandwidth (bw : Nat) : State := { after (.mldnPush 0) (withTxn (long 9 0)) with opBw := bw }
theorem test_mldnStep_remainder : (after .mldnStep (withBandwidth 0x00018000)).remDn = 0x8000 := by decide +kernel
theorem test_mldnStep_compresses :
    (after .mldnStep (withBandwidth 0x00018000)).dn.cdq.count = 1 ∧
      (after .mldnStep (withBandwidth 0x00018000)).engine.tot.unc = 256 := by decide +kernel
/-- The down link with a delivered transaction. -/
def deliveredDown : State := { State.reset with dn := { State.reset.dn with done := [[short 7 0]] } }
theorem test_mldnEmpty : (after (.mldnEmpty 0) deliveredDown).res = 0 := by decide +kernel
theorem test_mldnTop : (after (.mldnTop 0) deliveredDown).resTxn = some (short 7 0) := by decide +kernel
theorem test_mldnPop : (after (.mldnPop 0) deliveredDown).dn.done = [[]] := by decide +kernel

theorem test_mlupPush_short : (after (.mlupPush 1) (withTxn (short 7 0))).up.readyShort = [[], [short 7 0]] := by
  decide +kernel
theorem test_mlupFull : (after (.mlupFull 1) State.reset).res = 0 := by decide +kernel
/-- 48_compressed_link.md R303, R301: a ready short is served on an up link; H = 8, W = 64 gives one flit. -/
theorem test_mlupStep :
    (after .mlupStep { after (.mlupPush 1) (withTxn (short 7 0)) with opBw := 0x10000 }).up.dq.slots.getD 2 Slot.empty
      = { txn := some (short 7 0), head := true, tail := true } := by decide +kernel
/-- The up link with a delivered transaction. -/
def deliveredUp : State := { State.reset with up := { State.reset.up with done := [[short 7 0]] } }
theorem test_mlupEmpty : (after (.mlupEmpty 0) deliveredUp).res = 0 := by decide +kernel
theorem test_mlupTop : (after (.mlupTop 0) deliveredUp).resTxn = some (short 7 0) := by decide +kernel
theorem test_mlupPop : (after (.mlupPop 0) deliveredUp).up.done = [[]] := by decide +kernel

/-- V-X1 and V-X5 as whole steps. -/
theorem test_step_badCommand : (afterStep (State.reset.withFetchWord 32 0xD0000000)).fault = 1 := by decide +kernel
theorem test_step_ignoresIdx : (afterStep (State.reset.withFetchWord 32 0x50A50014)).res = 10 := by decide +kernel

/-- R345: an unrecognised predictor name is a configuration error (R353). -/
theorem test_unrecognised_predictor :
    (State.resetFor { exampleParams with
      mpc := { exampleMpcCfg with
        modules := [{ kind := .predComp { pred := .unrecognised, xor := .none, scan := scan0 }, encW := some 2 }] } }).fault
      = 8 := by decide +kernel

/-- R22: OP_LINE is up to 128 bytes. -/
theorem test_line_latch :
    (State.present State.reset { word := 0, line := some (List.replicate 128 1 ++ [2]) }).opLine = List.replicate 128 1 := by
  decide +kernel

/-! ### Witnesses: states and operands that meet the hypotheses of the statements, clause by clause -/

/-- The units of the instance of State.reset can run; used by every statement with `runs`. -/
theorem witness_runs :
    ∀ u ∈ [UnitId.sys, .mpc, .bdi, .fpc, .bpc, .cpack, .sc2, .eng, .dq, .cdq, .lnk, .mldn, .mlup],
      runs u State.reset := by decide +kernel

theorem witness_DecodeReadsBackEveryCommand :
    (Instr.lnkStep 65535).wf = true ∧ (Instr.mlupPop 255).wf = true ∧ (Instr.cdqPush 0).wf = true := by decide

theorem witness_DecodingIsByTheTopByteAlone :
    (0xC5FFFFFF : Word32).toNat / 2 ^ 24 ∈ tableOpcodes ∧ (0xC6000000 : Word32).toNat / 2 ^ 24 ∉ tableOpcodes ∧
      (0x00ABCDEF : Word32).toNat / 2 ^ 24 ∈ tableOpcodes ∧ (0x02000000 : Word32).toNat / 2 ^ 24 ∉ tableOpcodes := by
  decide

/-- A host's command that decodes, on the port of a reset block. -/
theorem witness_StepRunsTheDecodedCommand :
    (offerWord State.reset 0xA2000001).inbox = .command { word := 0xA2000001 } :: [] ∧
      decode 0xA2000001 = .ok (.lnkStep 1) := by decide +kernel

/-- An instance without optional units, and one with a single source and destination per link. -/
def bare : State := State.resetFor { exampleParams with present := [] }

theorem witness_IllegalCommandsRaiseBadCmd :
    ((offerWord State.reset 0xD0000000).fault = 0 ∧
      (offerWord State.reset 0xD0000000).inbox = .command { word := 0xD0000000 } :: [] ∧
      (0xD0000000 : Word32).toNat / 2 ^ 24 ∉ tableOpcodes) ∧
    (bare.fault = 0 ∧ bare.cfg.has (unitOf (.dqPop)) = false) ∧
    (State.reset.fault = 0 ∧ State.reset.cfg.lnk.sources ≤ 2 ∧ State.reset.cfg.lnk.dests ≤ 2 ∧
      State.reset.cfg.dn.sources ≤ 2 ∧ State.reset.cfg.dn.dests ≤ 1 ∧ State.reset.cfg.up.sources ≤ 2 ∧
      State.reset.cfg.up.dests ≤ 1) := by decide +kernel

theorem witness_ResetPinActsAsSysResetAndTheBlockWaits :
    ({ State.reset with inbox := [.resetPin] } : State).inbox = .resetPin :: [] ∧ State.reset.inbox = [] := by
  decide +kernel

/-- A faulted block, and one with a reserved word on its port. -/
def faulted : State := { State.reset with fault := 6 }

theorem witness_FaultedBlockRefusesCommands :
    faulted.fault ≠ 0 ∧ (offerWord faulted 0xA6000000).inbox = .command { word := 0xA6000000 } :: [] ∧
      (0xA6000000 : Word32).toNat / 2 ^ 24 ∉ tableOpcodes := by decide +kernel

theorem witness_FaultingCommandsChangeNothingElse :
    State.reset.fault = 0 ∧ (Instr.cpackCompress 6) ≠ .sysReset ∧ (after (.cpackCompress 6) State.reset).fault ≠ 0 := by
  decide +kernel

/-- Both ways out of a fault. -/
theorem witness_OnlyResetClearsAFault :
    (afterStep { faulted with inbox := [.resetPin] }).fault ≠ faulted.fault ∧
      (afterStep (offerWord faulted 0)).fault ≠ faulted.fault := by decide +kernel

theorem witness_UnadmittedByteCountsRaiseBadLen :
    State.reset.cfg.maxLineBytes < 160 ∧ 33 % 32 ≠ 0 ∧ 12 % 8 ≠ 0 ∧ 6 % 4 ≠ 0 ∧ State.reset.cfg.alg = some .fpc ∧
      6 % lineUnit .fpc ≠ 0 := by decide +kernel

/-- Type 4 is the first bad one, 3 the last good one; destination DST is the first bad one. -/
theorem witness_PushFaultsInTheOrderOfItsTests :
    (State.reset.cfg.lnk.badTypeAt = .push ∧ State.reset.cfg.dn.badTypeAt = .push ∧
      State.reset.cfg.up.badTypeAt = .push ∧ 1 < State.reset.cfg.lnk.sources ∧ 1 < State.reset.cfg.dn.sources ∧
      1 < State.reset.cfg.up.sources) ∧
    3 < (withTxn { short 7 0 with type := 4 }).opTxn.type.toNat ∧
    ((withTxn { short 7 2 with type := 3 }).opTxn.type.toNat ≤ 3 ∧
      State.reset.cfg.lnk.dests ≤ (withTxn { short 7 2 with type := 3 }).opTxn.dst ∧
      State.reset.cfg.dn.dests ≤ (withTxn { short 7 2 with type := 3 }).opTxn.dst) ∧
    ((queueAt (readyOf examplePlainLink (loaded 0 2 0 [] (List.replicate 4 (short 7 0))).lnk (short 7 0)) 1).length
      = examplePlainLink.readyDepth) := by decide +kernel

/-- An instance without a cause of F_CONFIG and instances with one: in a link, in a queue, in ALG, in the pipeline. -/
theorem witness_SysResetSetsEveryResetValue :
    ¬configCause { exampleParams with present := [] } ∧
      configCause { exampleParams with lnk := { examplePlainLink with flitBits := 0 } } ∧
      configCause { exampleParams with dq := { size := 1, latency := 0 } } ∧
      configCause { exampleParams with alg := none } ∧
      configCause { exampleParams with mpc := { exampleMpcCfg with lineSize := 33 } } := by
  refine ⟨?_, ?_, ?_, .inl rfl, ?_⟩
  · simp [configCause, Params.has, exampleParams]
  · exact .inr (.inr (.inr (.inr (.inl ⟨by decide, by simp [linkCause]⟩))))
  · exact .inr (.inr (.inl ⟨by decide, .inr (by decide)⟩))
  · exact .inr (.inl ⟨.inl (by decide), fun h => absurd h.2.2.2.2.2.1 (by decide)⟩)

theorem witness_RdfaultReadsTheFaultRegister :
    cmdUnit 0x01FFFFFF = 0 ∧ cmdVerb 0x01FFFFFF = 1 ∧ runs .cpack State.reset ∧
      completes (exec (.cpackCompress 6) State.reset) = true := by decide +kernel

/-- Byte counts at both ends of the admitted range, for every encoder: for StatelessCompressCompletes,
BdiCompressLatchesTheStateThatRdstateReads and CpackCompressCompletes, with witness_runs. -/
theorem witness_CompressCompletes :
    (32 ≠ 0 ∧ 32 % 32 = 0 ∧ 32 ≤ State.reset.cfg.maxLineBytes) ∧ (128 % 32 = 0 ∧ 128 ≤ State.reset.cfg.maxLineBytes) ∧
      8 % 8 = 0 ∧ 4 % 4 = 0 ∧ 128 ≤ State.reset.opLine.length := by decide +kernel

/-- A word looked up, and the line that follows it: the premises about one word of CpackCompressCompletes. -/
theorem witness_CpackLine :
    cpackWord exampleParams resetDict { b0 := 0, b1 := 0, b2 := 0, b3 := 5 } = (12, resetDict) ∧
      cpackLine exampleParams resetDict (bytes [0, 0, 0, 0]) = (2, resetDict) := by decide +kernel

/-- Sampling with T = 2 (no build in the first call), sampling with T = 1 (a build in the first call), and steady. -/
theorem witness_Sc2CompressCompletes :
    (State.reset.sc2.phase = .sampling ∧ State.reset.sc2.calls + 1 ≠ State.reset.cfg.sc2WarmupCalls) ∧
      ((State.resetFor { exampleParams with sc2WarmupCalls := 1 }).sc2.phase = .sampling ∧
        (State.resetFor { exampleParams with sc2WarmupCalls := 1 }).sc2.calls + 1 = 1) ∧
      (State.resetFor { exampleParams with sc2WarmupCalls := 0 }).sc2.phase = .steady ∧
      runs .sc2 (State.resetFor { exampleParams with sc2WarmupCalls := 0 }) := by decide +kernel

/-- The engine can run with each of the six encoders. -/
theorem witness_EngCompressIsTheEncoderThatAlgNames :
    ∀ a ∈ [Alg.mpc, .bdi, .fpc, .bpc, .cpack, .sc2],
      runs .eng (State.resetFor { exampleParams with alg := some a }) ∧ 32 % lineUnit a = 0 ∧ 128 % lineUnit a = 0 := by
  decide +kernel

/-- Boundary words of the categories: -8 and 7, -128 and 127, -32768 and 32767, and one of each other kind. -/
theorem witness_FpcFirstCategoryIsTheCheapest :
    (∀ w ∈ [0xFFFFFFF8, 7], inSigned 4 (sext 32 w) = true) ∧ (∀ w ∈ [0xFFFFFF80, 127], inSigned 8 (sext 32 w) = true) ∧
      (∀ w ∈ [0xFFFF8000, 32767], inSigned 16 (sext 32 w) = true) ∧ fpcZeroPadded exampleParams 0x10000 = true ∧
      fpcTwoHalves 0xFF80007F = true ∧ fpcRepeatedByte 0xFFFFFFFF = true ∧ 0 < 1 ∧ 0xFFFFFFFF < 2 ^ 32 ∧
      exampleParams.fpcZp16LowZero = true := by decide

theorem witness_FpcCostBounds :
    exampleParams.fpcZrunPayload = 0 ∧ 4 ≤ (bytes [0, 0, 0, 0]).length := by decide

theorem witness_BdiZeroAndRepeatedLines :
    (List.replicate 8 (0 : Byte)).length = 8 ∧ (bytes [1, 0, 0, 0, 0, 0, 0, 0]).length = 8 ∧
      bytes [1, 0, 0, 0, 0, 0, 0, 0] ≠ List.replicate 8 0 := by decide

/-- V-B17: no configuration is below the raw size; V-B7: one is. -/
theorem witness_BdiNeverExceedsRawByMoreThanFour :
    ((bytes (List.range 32)).length % 8 = 0 ∧ bdiAllZero (bytes (List.range 32)) = false ∧
      bdiRepeated (bytes (List.range 32)) = false ∧
      ∀ c ∈ bdiConfigs, 8 * (bytes (List.range 32)).length ≤ configCost exampleParams (bytes (List.range 32)) c.1 c.2) ∧
    (bdiAllZero (words8 [1, 2, 3, 4]) = false ∧ bdiRepeated (words8 [1, 2, 3, 4]) = false ∧ (8, 1) ∈ bdiConfigs ∧
      configCost exampleParams (words8 [1, 2, 3, 4]) 8 1 < 8 * (words8 [1, 2, 3, 4]).length) := by decide +kernel

/-- The cost clauses of the same statement: every word immediate; r = 3 and every distance in range (R160); the last word
alone too far from the base; r = 1, the base with no other word. -/
theorem witness_BdiCosts :
    (exampleParams.bdiMaskBits = [] ∧ exampleParams.bdiDeltaForBaseWord = false) ∧
    (∀ v ∈ bdiWords (words8 [0x1000, 0x1001, 0x1002, 0x1003]) 8, fits v 2 = true) ∧
    (bdiWords (words8 [7, 0x1000, 0x107F, 0xF80]) 8 = [7] ++ (0x1000 : Int) :: [0x107F, 0xF80] ∧
      (∀ v ∈ [(7 : Int)], fits v 1 = true) ∧ fits 0x1000 1 = false ∧
      ∀ v ∈ [(0x107F : Int), 0xF80], fits v 1 = false → fits (wrappedDistance v 0x1000) 1 = true) ∧
    (bdiWords (words8 [0x1000, 1, 0x1080]) 8 = [] ++ (0x1000 : Int) :: [1, 0x1080] ∧
      ∃ v ∈ [(1 : Int), 0x1080], fits v 1 = false ∧ fits (wrappedDistance v 0x1000) 1 = false) ∧
    bdiWords (words8 [127, 128]) 8 = [127] ++ (128 : Int) :: [] := by decide +kernel

theorem witness_BdiRangeTestAndDistance :
    ((-(2 ^ 63) : Int) ≤ -(2 ^ 63) ∧ (2 ^ 63 - 1 : Int) < 2 ^ 63 ∧ 1 ≤ 1 ∧ 8 ≤ 8) ∧
      ((-(2 ^ 31) : Int) ≤ -(2 ^ 31) ∧ (2 ^ 31 - 1 : Int) < 2 ^ 31) := by decide

theorem witness_BpcStatements :
    (bytes [5, 0, 0, 0]).length = 4 ∧ exampleParams.bpcZrlCost = [] ∧ exampleParams.bpcFirstWordAlwaysZero = false ∧
      exampleParams.bpcLowerBound = [] ∧ 4 ≤ (bytes [5, 0, 0, 0]).length := by decide

/-- The planes of the same statement: a zero DBP under a non-zero DBX; all ones; one set bit; two neighbours, at the end;
two set bits that are no neighbours. -/
theorem witness_PlaneCategories :
    (true ∈ [true, false] ∧ true ∉ [false, false]) ∧ (true ∈ [true, true] ∧ false ∉ [true, true]) ∧
      [false, true, false].count true = 1 ∧ twoAdjacentOnes [false, true, true] ∧
      ([true, false, true].count true ≠ 1 ∧ ¬twoAdjacentOnes [true, false, true] ∧ false ∈ [true, false, true]) := by
  refine ⟨by decide, by decide, by decide, ⟨by decide, 1, by decide, by decide⟩, by decide, ?_, by decide⟩
  rintro ⟨-, c, h1, h2⟩
  match c with
  | 0 => simp at h2
  | 1 => simp at h1
  | 2 => simp at h2
  | n + 3 => simp at h1

/-- V-P13: planes 32 and 0 are non-zero, and column 1 ends the run of 31 zero planes between them. -/
theorem witness_BpcColumns :
    let line := words [0, 0, 0, 1, 0, 0, 0, 0]
    (true ∈ dbxPlane line 32 ∧ true ∈ dbxPlane line 0) ∧ true ∉ dbxPlane line 1 ∧ zeroRunFrom line 1 = 31 := by
  decide +kernel

/-- V-M13 in small: the second candidate has more leading zero rows. -/
theorem witness_MpcWinnerHasMostLeadingZeroRows :
    mpcWinner [([[true], [false]], 3), ([[false], [true]], 4)] = some ([[false], [true]], 4) ∧
      [[false], [true]][leadingZeroRows [[false], [true]]]? = some [true] := by decide

/-- The cost clauses of the same statement: a zero sub-block, one repeated group, one of neither kind whose last group
alone differs, with every module configured, and the pipeline without fast paths. -/
theorem witness_MpcSubBlockCosts :
    ((List.replicate 32 (0 : Byte)).length = 32 ∧ (∀ b ∈ List.replicate 32 (0 : Byte), b = 0) ∧
      exampleMpcCfg.modules.find? (fun m => m.kind == .allZero) = some { kind := .allZero, encW := some 2 }) ∧
    ((∃ b ∈ List.replicate 32 (1 : Byte), b ≠ 0) ∧
      (∀ j < 8, ∀ k < 4, (List.replicate 32 (1 : Byte)).getD (4 * j + k) 0 = (List.replicate 32 (1 : Byte)).getD k 0) ∧
      exampleMpcCfg.modules.find? (fun m => m.kind == .allWordSame) = some { kind := .allWordSame, encW := some 2 }) ∧
    ((∃ j < 8, ∃ k < 4, (List.replicate 31 (1 : Byte) ++ [2]).getD (4 * j + k) 0
        ≠ (List.replicate 31 (1 : Byte) ++ [2]).getD k 0) ∧
      (mpcWinner (mpcCandidates exampleParams (List.replicate 31 (1 : Byte) ++ [2]))).isSome = true) ∧
    (∀ m ∈ exampleMpcCfg.modules.drop 2, m.kind ≠ .allZero ∧ m.kind ≠ .allWordSame) := by decide +kernel

/-- A winner of the configured pipeline, and the module it is: index 2 of the list. -/
theorem witness_MpcWinnerModule :
    (mpcWinner (mpcCandidates exampleParams (bytes (List.range 32)))).isSome = true ∧
      (exampleParams.mpc.modules[2]?.map fun m =>
        m.kind == .predComp { pred := .consecutiveBase, xor := .consecutive, scan := scan0 }) = some true := by
  decide +kernel

theorem witness_MpcRowBitsBounds :
    2 ≤ [[false], [false]].length ∧ [[false], [false]].all allZeroBits = true := by decide

/-- The stages of the same statement: an entry of the scan at its last place, DiffBase with and without a base, OneBase
beside its root. -/
theorem witness_MpcStages :
    (scan0.getD 15 [])[15]? = some (0, 31) ∧ [some 3, none].getD 0 none = some 3 ∧
      [some 3, (none : Option Nat)].getD 1 none = none ∧ 1 ≠ 0 := by decide +kernel

/-- The rows of the same statement: one set bit; two neighbours over the middle; two bits in the back half; two in the
front half; one in each half; and runs of one and of two zero rows, before a row with a set bit and at the end. -/
theorem witness_RowCategories :
    [false, false, true, false].count true = 1 ∧ twoAdjacentOnes [false, true, true, false] ∧
      ([false, false, false, true, false, true].count true ≠ 1 ∧
        true ∉ [false, false, false, true, false, true].take 3) ∧
      true ∉ [true, false, true, false, false, false].drop 3 ∧
      (true ∈ [true, false, false, true].take 2 ∧ true ∈ [true, false, false, true].drop 2) ∧
      ¬twoAdjacentOnes [true, false, false, true] ∧
      ((∀ row ∈ [[false, false], [false, false]], true ∉ row) ∧
        ∃ row rest, [[false, true], [false, false]] = row :: rest ∧ true ∈ row) := by
  refine ⟨by decide, ⟨by decide, 1, by decide, by decide⟩, by decide, by decide, by decide, ?_, by decide,
    _, _, rfl, by decide⟩
  rintro ⟨-, c, h1, h2⟩
  match c with
  | 0 | 1 => simp at h2
  | 2 => simp at h1
  | 3 => simp at h2
  | n + 4 => simp at h1

theorem witness_MpcSubBlocksAreIndependent : (List.replicate 32 (0 : Byte)).length % 32 = 0 := by decide

/-- The zero prefix, a miss of every entry of the reset dictionary, and a match of two bytes with its first entry. -/
theorem witness_CpackInsertsExactlyOnAMiss :
    exampleParams.cpackMatch = .firstHit ∧ exampleParams.cpackInsertOnPartial = false ∧
      (∀ e ∈ resetDict, ¬(e.b0 = (1 : Byte) ∧ e.b1 = (0 : Byte))) ∧
      resetDict = [] ++ { b0 := 0, b1 := 0, b2 := 0, b3 := 0 } :: List.replicate 15 { b0 := 0, b1 := 0, b2 := 0, b3 := 0 } ∧
      ¬((0 : Byte) = 0 ∧ (0 : Byte) = 0 ∧ (5 : Byte) = 0) := by decide

theorem witness_CpackDictionaryIsAFifo : resetDict.length = 16 ∧ 16 ≤ resetDict.length := by decide

/-- Maps in canonical form, for the statements about sampling, pruning and code lengths. -/
theorem witness_Sc2Maps :
    symsRise [(1, 6), (2, 4), (3, 1)] = true ∧ exampleParams.sc2MinCodeLen = 0 ∧
      2 ≤ ([(1, 6), (2, 4)] : SymMap).length ∧ ([(1, 6)] : SymMap).length = 1 ∧ exampleParams.sc2HeapOrder = [] := by
  decide

/-- A sample of 1025 symbols of equal frequency, from a symbol on. -/
def sampleFrom : Nat → Nat → SymMap
  | _, 0 => []
  | first, n + 1 => (BitVec.ofNat 32 first, 1) :: sampleFrom (first + 1) n

theorem mem_sampleFrom {n first : Nat} {e : Word32 × Nat} (h : e ∈ sampleFrom first n) :
    ∃ k, first ≤ k ∧ k < first + n ∧ e = (BitVec.ofNat 32 k, 1) := by
  induction n generalizing first with
  | zero => cases h
  | succ n ih =>
    rcases List.mem_cons.1 h with rfl | h
    · exact ⟨first, le_refl _, by omega, rfl⟩
    · obtain ⟨k, h1, h2, rfl⟩ := ih h
      exact ⟨k, by omega, by omega, rfl⟩

theorem symsRise_sampleFrom {n first : Nat} (h : first + n ≤ 2 ^ 32) : symsRise (sampleFrom first n) = true := by
  induction n generalizing first with
  | zero => rfl
  | succ n ih =>
    simp only [sampleFrom, symsRise, Bool.and_eq_true, List.all_eq_true, decide_eq_true_eq]
    refine ⟨fun e he => ?_, ih (by omega)⟩
    obtain ⟨k, h1, h2, rfl⟩ := mem_sampleFrom he
    simp only [BitVec.toNat_ofNat]
    rw [Nat.mod_eq_of_lt (by omega), Nat.mod_eq_of_lt (by omega)]
    omega

/-- A pruned sample drops a symbol, and it is as frequent as every kept one. -/
theorem witness_PruningKeepsTheMostFrequent :
    symsRise (sampleFrom 0 1025) = true ∧ (∃ a, a ∈ prune [] (sampleFrom 0 1025)) ∧
      ∃ b ∈ sampleFrom 0 1025, b ∉ prune [] (sampleFrom 0 1025) := by
  have hl : (sampleFrom 0 1025).length = 1025 := by decide +kernel
  have hr := symsRise_sampleFrom (n := 1025) (first := 0) (by decide)
  have hlt : sc2HeapCapacity < (sampleFrom 0 1025).length := by rw [hl]; decide
  have hk : ((sortBy (pruneBefore []) (sampleFrom 0 1025)).take sc2HeapCapacity).length = 1024 := by
    rw [List.length_take, (sortBy_perm _ _).length_eq, hl]; rfl
  refine ⟨hr, ?_, ?_⟩
  · obtain ⟨a, ha⟩ := List.exists_mem_of_length_pos (hk ▸ (by decide : 0 < 1024))
    exact ⟨a, (mem_prune_of_large hlt).2 ha⟩
  · by_contra h
    push Not at h
    have := (symsRise_nodup hr).subperm fun e he => (mem_prune_of_large hlt).1 (h e he)
    have := this.length_le
    omega

/-- A ring, d = 2 pops and fewer than cap = 4 pushes, interleaved; also for DqOffsetCountsPushesAndPops. -/
theorem witness_DqLatencyLaw :
    dqOk { size := 2, latency := 2 } (resetDq { size := 2, latency := 2 }) ∧
      (([none, some Slot.empty, none, some Slot.empty, some Slot.empty] : List (Option Slot)).filter Option.isNone).length
        = dqOffset { size := 2, latency := 2 } (resetDq { size := 2, latency := 2 }) ∧
      (([none, some Slot.empty, none, some Slot.empty, some Slot.empty] : List (Option Slot)).filter Option.isSome).length
        < 4 := by decide

/-- Not full, full, due exactly one cycle past the latency, not due, empty. -/
theorem witness_CdqVerbsComplete :
    State.reset.cdq.count ≠ State.reset.cfg.cdq.size + State.reset.cfg.cdq.latency ∧
      withFullCdq.cdq.count = withFullCdq.cfg.cdq.size + withFullCdq.cfg.cdq.latency ∧
      (0 < (withEntry 8).cdq.count ∧
        ((withEntry 8).cdq.slots.getD (withEntry 8).cdq.rd CSlot.empty).pushCycle.toNat + (withEntry 8).cfg.cdq.latency
          < (withEntry 8).opNow.toNat) ∧
      ¬((withEntry 7).cdq.slots.getD (withEntry 7).cdq.rd CSlot.empty).pushCycle.toNat + (withEntry 7).cfg.cdq.latency
          < (withEntry 7).opNow.toNat ∧
      State.reset.cdq.count = 0 := by decide +kernel

theorem witness_CdqIsAFifoOfEntries :
    cdqOk { size := 2, latency := 2 } (withEntry 8).cdq ∧
      cdqOk { size := 2, latency := 2 } (resetCdq { size := 2, latency := 2 }) := by decide +kernel

/-- A push of either kind of transaction to the last source of each link. -/
theorem witness_PushCompletesOnEveryLink :
    (withTxn (long 9 0)).opTxn.type.toNat ≤ 3 ∧ (withTxn { short 7 0 with type := 3 }).opTxn.type.toNat ≤ 3 ∧
      1 < State.reset.cfg.lnk.sources ∧ 1 < State.reset.cfg.dn.sources ∧ 1 < State.reset.cfg.up.sources ∧
      0 < State.reset.cfg.lnk.dests ∧ 0 < State.reset.cfg.dn.dests ∧ 0 < State.reset.cfg.up.dests ∧
      (queueAt (readyOf State.reset.cfg.lnk State.reset.lnk (long 9 0)) 1).length ≠ State.reset.cfg.lnk.readyDepth ∧
      (queueAt (readyOf State.reset.cfg.dn State.reset.dn (long 9 0)) 1).length ≠ State.reset.cfg.dn.readyDepth ∧
      (queueAt (readyOf State.reset.cfg.up State.reset.up (short 7 0)) 1).length ≠ State.reset.cfg.up.readyDepth := by
  decide +kernel

/-- The last source and destination of each link, for FullTellsWhetherAReadyQueueIsFull and
EmptyTopAndPopActOnTheCompletedQueue, with witness_runs. -/
theorem witness_LinkIndices :
    1 < State.reset.cfg.lnk.sources ∧ 1 < State.reset.cfg.lnk.dests ∧ 1 < State.reset.cfg.dn.sources ∧
      0 < State.reset.cfg.dn.dests ∧ 1 < State.reset.cfg.up.sources ∧ 0 < State.reset.cfg.up.dests := by decide +kernel

/-- A plain link with packets, and compressed links with a waiting long: none of them can fault. -/
theorem witness_LnkStepCompletes :
    (dqOk (loaded 3 5 1 [] [long 9 1]).cfg.lnk.dq (loaded 3 5 1 [] [long 9 1]).lnk.dq ∧
      stepCannotFault (loaded 3 5 1 [] [long 9 1]).cfg (loaded 3 5 1 [] [long 9 1]).cfg.lnk
        (loaded 3 5 1 [] [long 9 1]).lnk) ∧
    (runs .lnk (State.resetFor { exampleParams with lnk := exampleCompressedLink .up }) ∧
      stepCannotFault { exampleParams with lnk := exampleCompressedLink .up } (exampleCompressedLink .up)
        (after (.mldnPush 0) (withTxn (long 9 0))).dn) ∧
    ((exampleCompressedLink .up).compPassFirst = false ∧
      stepCannotFault exampleParams { exampleCompressedLink .up with compPassFirst := true } (resetLink (exampleCompressedLink .up)) ∧
      examplePlainLink.kind = .plain) := by decide +kernel

theorem witness_MemoryLinkStepsComplete :
    (runs .mldn (withBandwidth 0x18000) ∧ dqOk (withBandwidth 0x18000).cfg.dn.dq (withBandwidth 0x18000).dn.dq ∧
      stepCannotFault (withBandwidth 0x18000).cfg (withBandwidth 0x18000).cfg.dn (withBandwidth 0x18000).dn) ∧
    (runs .mlup State.reset ∧ dqOk State.reset.cfg.up.dq State.reset.up.dq ∧
      stepCannotFault State.reset.cfg State.reset.cfg.up State.reset.up) := by decide +kernel

theorem witness_BandwidthLaw :
    ∀ b ∈ [0x18000, 0, 2 ^ 32 - 1], b < 2 ^ (16 + exampleParams.bwFrac) := by decide +kernel

theorem witness_RoundRobinFindsTheFirstReadySource :
    nextSource examplePlainLink 1 [[short 7 0], []] = some 0 ∧ nextSource examplePlainLink 1 [[], []] = none := by
  decide +kernel

/-- The plain link's choice: a long in the last place of the search order from rr = 1, nothing ready, and a packet in
progress. -/
theorem witness_PlainLinkChoice :
    (examplePlainLink.kind = .plain ∧ examplePlainLink.badTypeAt = .push ∧ (loaded 0 2 1 [long 9 1] []).lnk.cur = none) ∧
      (firstReady examplePlainLink 1 (loaded 0 2 1 [long 9 1] []).lnk.ready 0 ∧
        queueAt (loaded 0 2 1 [long 9 1] []).lnk.ready 0 = long 9 1 :: []) ∧
      noneReady examplePlainLink (loaded 0 2 1 [] []).lnk.ready ∧
      (after (.lnkStep 1) (loaded 3 5 1 [] [long 9 1])).lnk.cur.isSome = true := by decide +kernel

theorem witness_PacketsAreConsecutiveFlits :
    (after (.lnkStep 1) (loaded 3 5 1 [] [long 9 1])).lnk.cur = some { txn := long 9 1, left := 2, first := false } ∧
      0 < 2 ∧ 2 ≤ 2 := by decide +kernel

/-- The other clauses of the same statement: a packet of three flits that is taken, a link with nothing to take, and a
choice that meets a fault. -/
theorem witness_PushPhases :
    (withPacket examplePlainLink (loaded 0 2 1 [long 9 1] []).lnk
        = .ok
          { (loaded 0 2 1 [] []).lnk with
            rr := 0, cur := some { txn := long 9 1, left := 3, first := true } } ∧ 3 ≤ 3) ∧
      (withPacket examplePlainLink (loaded 0 2 1 [] []).lnk = .ok (loaded 0 2 1 [] []).lnk ∧
        (loaded 0 2 1 [] []).lnk.cur = none) ∧
      withPacket { examplePlainLink with badTypeAt := .schedule } (loaded 0 2 1 [{ short 7 0 with type := 4 }] []).lnk
        = .error .badType := by decide +kernel

theorem witness_LeftoverArithmetic :
    1 ≤ (exampleCompressedLink .up).flitBits ∧ 1 ≤ (1 : Nat) ∧ 63 < (exampleCompressedLink .up).flitBits := by decide

/-- A compressed link with a ready short, a pending leftover, and a long that is due. -/
def dueLink : Link :=
  { (resetLink (exampleCompressedLink .down)) with
    readyShort := [[], [short 7 0]]
    cdq :=
      { slots := { txn := some (long 9 0), size := 21, pushCycle := 0 } :: List.replicate 4 CSlot.empty
        rd := 0, wr := 1, count := 1 }
    cycle := 2 }

/-- For DownLinkPriority and UpLinkPriority: a short in the last place of the search order, a long that is due by one
cycle, a pending leftover, nothing to serve, and a packet in progress. The two directions' parameters differ in `dir`
alone. -/
theorem witness_LinkPriorities :
    ((exampleCompressedLink .down).kind = .compressed ∧ (exampleCompressedLink .down).dir = .down ∧
      (exampleCompressedLink .up).kind = .compressed ∧ (exampleCompressedLink .up).dir = .up ∧
      (exampleCompressedLink .up).badTypeAt = .push ∧
      (exampleCompressedLink .down).badTypeAt = .push ∧ (exampleCompressedLink .down).dnShortFallback = false) ∧
    (dueLink.cur = none ∧ ({ dueLink with cur := some { txn := long 9 0, left := 1, first := false } } : Link).cur
      = some { txn := long 9 0, left := 1, first := false }) ∧
    (dueLink.leftover = 0 ∧ firstReady (exampleCompressedLink .down) dueLink.rr dueLink.readyShort 1 ∧
      queueAt dueLink.readyShort 1 = short 7 0 :: []) ∧
    (cdqTop (exampleCompressedLink .down).cdq dueLink.cdq dueLink.cycle
        = some { txn := some (long 9 0), size := 21, pushCycle := 0 } ∧
      ({ dueLink with leftover := 21 } : Link).leftover ≠ 0) ∧
    (noneReady (exampleCompressedLink .down) (resetLink (exampleCompressedLink .down)).readyShort ∧
      cdqTop (exampleCompressedLink .down).cdq dueLink.cdq 1 = none) := by decide +kernel

/-- A step of a compressed link that completes, with a budget and with none, for CompressedStepTicksAndDiscards and
StepOfBudgetZero. -/
theorem witness_CompressedSteps :
    (linkStep exampleParams (exampleCompressedLink .down) dueLink State.reset.engine 1).isOk = true ∧
      (linkStep exampleParams (exampleCompressedLink .down) dueLink State.reset.engine 0).isOk = true := by
  decide +kernel

/-- V-L5: the second of two pops finds the completed queue full after the delivery of the first; and steps that meet the
other faults. -/
theorem witness_FaultsOfLinkSteps :
    (({ examplePlainLink with doneDepth := some 1 } : LinkParams).doneDepth = some 1 ∧
      poppedTxns examplePlainLink.dq 2
          { slots := List.replicate 6 { txn := some (short 7 0), head := true, tail := true }, rd := 0, wr := 2 }
        = [short 7 0] ++ short 7 0 :: [] ∧
      (queueAt (delivered [[], []] [short 7 0]) (short 7 0).dst).length = 1) ∧
    linkStep exampleParams (exampleCompressedLink .down)
      { dueLink with readyLong := [[{ long 9 0 with len := 64 }], []] } State.reset.engine 0 = .error .badLen ∧
    linkStep exampleParams { exampleCompressedLink .down with badTypeAt := .schedule }
      { dueLink with readyShort := [[{ short 7 0 with type := 4 }], []] } State.reset.engine 1 = .error .badType ∧
    linkStep { exampleParams with alg := none } (exampleCompressedLink .down)
      { dueLink with readyLong := [[long 9 0], []] } State.reset.engine 0 = .error .config := by
  decide +kernel

/-- States whose STEP of each link meets a fault, for the last clause of the same statement. -/
theorem witness_FaultsOfLinkCommands :
    (runs .lnk
        (State.resetFor { exampleParams with lnk := exampleCompressedLink .up }) ∧
      runs .mldn State.reset ∧ runs .mlup State.reset) ∧
    linkStep exampleParams exampleParams.dnLink { dueLink with readyLong := [[{ long 9 0 with len := 64 }], []] }
      State.reset.engine (bwBudget exampleParams 0 0) = .error .badLen ∧
    linkStep exampleParams exampleParams.upLink { dueLink with readyLong := [[{ long 9 0 with len := 64 }], []] }
      State.reset.engine (bwBudget exampleParams 0 0) = .error .badLen ∧
    linkStep { exampleParams with lnk := exampleCompressedLink .up } (exampleCompressedLink .up)
      { dueLink with readyLong := [[{ long 9 0 with len := 64 }], []] } State.reset.engine 0 = .error .badLen := by
  decide +kernel

theorem witness_CompressionPassTakesOnePerSource :
    ((exampleCompressedLink .down).compPerSrcPerStep = 1 ∧ (exampleCompressedLink .down).clampRaw = false) ∧
    (queueAt (after (.mldnPush 0) (withTxn (long 9 0))).dn.readyLong 0 = long 9 0 :: [] ∧
      (after (.mldnPush 0) (withTxn (long 9 0))).dn.cdq.count < (exampleCompressedLink .down).cdq.cap ∧
      (long 9 0).len = 32 ∧ (engineCompress exampleParams State.reset.engine (long 9 0).payload 32).isOk = true) ∧
    (queueAt dueLink.readyLong 0 = [] ∧
      ({ dueLink.cdq with count := 5 } : Cdq).count = (exampleCompressedLink .down).cdq.cap) ∧
    (compressionPass exampleParams (exampleCompressedLink .down) dueLink State.reset.engine).isOk = true := by
  decide +kernel

theorem witness_EachUnitWritesOnlyItsOwnState :
    completes (exec (.lnkStep 1) State.reset) = true ∧ Instr.lnkStep 1 ≠ .sysReset := by decide +kernel

theorem witness_EveryStepKeepsTheStateWellFormed :
    State.reset.wf ∧ (offerWord State.reset 0xA2000001).wf ∧
      completes (step (offerWord State.reset 0xA2000001)) = true := by decide +kernel

end Sys2Proof.Tests
end

section
/-! PROOFS. The commands and the step as a whole: what a command of a unit does to the parameters (R50, R348, R350), and
what a COMPRESS of an admitted byte count completes with (R15, R111, R170, R185). Settles O4, O6, O15. -/

namespace Sys2Proof.Proofs

open Sys2Proof.Machine Sys2Proof.Claims

/-! ### Every step completes -/

/-- The command completes, with a fault or without one, and leaves the static parameters alone. -/
def CompletesKeepingCfg (s : State) (o : Host.Outcome State Fault Refusal) : Prop :=
  ∃ t, o = .next t ∧ t.cfg = s.cfg

/-- A refusal and a raised fault keep the parameters, so only the verb's own rule can change them. -/
theorem runCommand_completes {u : UnitId} {body : State → Except FaultCode State} {s : State}
    (hbody : ∀ t, body s = .ok t → t.cfg = s.cfg) : CompletesKeepingCfg s (runCommand u body s) := by
  rcases runCommand_cases u body s with ⟨_, h⟩ | ⟨_, _, h⟩ | ⟨_, _, ⟨t, hb, h⟩ | ⟨f, _, h⟩⟩
  · exact ⟨_, h, refuse_cfg s⟩
  · exact ⟨_, h, raise_cfg .badCmd s⟩
  · exact ⟨t, h, hbody t hb⟩
  · exact ⟨_, h, raise_cfg f s⟩

/-- A verb whose rule has no fault of its own. -/
theorem runCommand_total_completes {u : UnitId} {f : State → State} {s : State} (hf : (f s).cfg = s.cfg) :
    CompletesKeepingCfg s (runCommand u (fun s => .ok (f s)) s) :=
  runCommand_completes fun _ h => by cases h; exact hf

/-- A verb whose rule first computes what can fault (an operand, an index, a queue, a link), then writes its result. -/
theorem runCommand_bind_completes {α : Type} {u : UnitId} {x : State → Except FaultCode α} {f : State → α → State}
    {s : State} (hf : ∀ a, (f s a).cfg = s.cfg) :
    CompletesKeepingCfg s (runCommand u (fun s => x s >>= fun a => .ok (f s a)) s) :=
  runCommand_completes fun _ h => by
    obtain ⟨a, _, ha⟩ := bind_eq_ok.1 h
    cases ha
    exact hf a

theorem execCdqTop_completes (s : State) : CompletesKeepingCfg s (execCdqTop s) :=
  runCommand_completes fun t h => by
    cases hc : cdqTop s.cfg.cdq s.cdq s.opNow <;> simp only [hc] at h <;> cases h <;> rfl

theorem exec_completes (i : Instr) (s : State) : CompletesKeepingCfg s (exec i s) := by
  unfold exec
  match i with
  | .sysReset => exact ⟨_, rfl, State.reinit_cfg s⟩
  | .sysRdfault => exact ⟨_, rfl, rfl⟩
  | .mpcCompress _ | .bdiCompress _ | .fpcCompress _ | .bpcCompress _ | .cpackCompress _ | .sc2Compress _
  | .engCompress _ | .cdqPush _
  | .lnkPush _ | .lnkFull _ | .lnkStep _ | .lnkEmpty _ | .lnkTop _ | .lnkPop _
  | .mldnPush _ | .mldnFull _ | .mldnStep | .mldnEmpty _ | .mldnTop _ | .mldnPop _
  | .mlupPush _ | .mlupFull _ | .mlupStep | .mlupEmpty _ | .mlupTop _ | .mlupPop _ =>
    exact runCommand_bind_completes fun _ => rfl
  | .mpcTotu | .mpcTotc | .bdiTotu | .bdiTotc | .bdiRdstate | .fpcTotu | .fpcTotc | .bpcTotu | .bpcTotc
  | .cpackTotu | .cpackTotc | .sc2Totu | .sc2Totc | .engTotu | .engTotc
  | .dqPush _ _ _ | .dqPop | .cdqPop | .cdqFull => exact runCommand_total_completes rfl
  | .cdqTop => exact execCdqTop_completes s

theorem illegalCommand_completes (s : State) : CompletesKeepingCfg s (illegalCommand s) := by
  rcases illegalCommand_cases s with ⟨_, h⟩ | ⟨_, h⟩
  · exact ⟨_, h, refuse_cfg s⟩
  · exact ⟨_, h, raise_cfg .badCmd s⟩

theorem runPort_of_decode {s : State} {i : Instr} (h : decode s.cmd = .ok i) : runPort s = exec i s := by
  simp only [runPort, h]

theorem runPort_of_reject {s : State} {r : DecodeReject} (h : decode s.cmd = .error r) :
    runPort s = illegalCommand s := by
  simp only [runPort, h]

theorem runPort_completes (s : State) : CompletesKeepingCfg s (runPort s) := by
  cases h : decode s.cmd with
  | ok i => rw [runPort_of_decode h]; exact exec_completes i s
  | error r => rw [runPort_of_reject h]; exact illegalCommand_completes s

theorem step_of_idle {s : State} (h : s.inbox = []) : step s = .next s := by
  simp only [step, nextEvent, h]

theorem step_of_command {s : State} {c : Command} {rest : List HostEvent} (h : s.inbox = .command c :: rest) :
    step s = runPort (State.present { s with inbox := rest } c) := by
  simp only [step, nextEvent, runEvent, h]

theorem step_of_resetPin {s : State} {rest : List HostEvent} (h : s.inbox = .resetPin :: rest) :
    step s = .next (State.reinit { s with inbox := rest }) := by
  simp only [step, nextEvent, runEvent, h]

/-- Settles O6: the host's next event is none, a command or a pull of the reset pin, and each completes. -/
theorem everyStepCompletesAndKeepsTheParameters : Obligations.EveryStepCompletesAndKeepsTheParameters := by
  intro s
  match h : s.inbox with
  | [] => exact ⟨s, step_of_idle h, rfl⟩
  | .command c :: rest =>
    rw [step_of_command h]
    exact runPort_completes (State.present { s with inbox := rest } c)
  | .resetPin :: rest => exact ⟨_, step_of_resetPin h, rfl⟩

/-- Settles O4: the word reaches the port with the latches, and the port runs what it decodes to. -/
theorem stepRunsTheDecodedCommand : Obligations.StepRunsTheDecodedCommand := by
  intro s c rest i hin hdec
  rw [step_of_command hin]
  exact runPort_of_decode hdec

/-! ### A COMPRESS of an admitted byte count -/

theorem lineOperand_of_admitted {p : Params} {a : Alg} {n : Nat} (supplied : Line) (hpos : n ≠ 0)
    (hunit : n % lineUnit a = 0) (hmax : n ≤ p.maxLineBytes) :
    lineOperand p a supplied n = .ok (lineOf supplied n) := by
  simp [lineOperand, admitted, hpos, hunit, hmax]

/-- A verb that reads a line and writes its result completes when the byte count is admitted. -/
theorem runCommand_of_line {u : UnitId} {a : Alg} {n : Nat} {f : State → Line → State} {s : State} (hrun : runs u s)
    (hpos : n ≠ 0) (hunit : n % lineUnit a = 0) (hmax : n ≤ s.cfg.maxLineBytes) :
    runCommand u (fun s => lineOperand s.cfg a s.opLine n >>= fun line => .ok (f s line)) s =
      .next (f s (lineOf s.opLine n)) := by
  obtain ⟨hfault, hpresent⟩ := hrun
  exact runCommand_of_ok hfault hpresent
    (bind_eq_ok.2 ⟨_, lineOperand_of_admitted s.opLine hpos hunit hmax, rfl⟩)

/-- Settles O15: each of the three verbs reads its line and writes RES and its unit's totals. -/
theorem statelessCompressCompletes : Obligations.StatelessCompressCompletes := by
  intro s n hpos hmax
  refine ⟨fun hrun hunit => ?mpc, fun hrun hunit => ?fpc, fun hrun hunit => ?bpc, lineOf_of_le⟩
  case mpc =>
    change execMpcCompress n s = _
    exact runCommand_of_line hrun hpos hunit hmax
  case fpc =>
    change execFpcCompress n s = _
    exact runCommand_of_line hrun hpos hunit hmax
  case bpc =>
    change execBpcCompress n s = _
    exact runCommand_of_line hrun hpos hunit hmax

end Sys2Proof.Proofs
end

section
/-! PROOFS. The Bit-Plane encoder (spec/43_bpc.md): the planes of a line as bits of its words, the recursion over the
columns as a sum over them, the categories, the worst case. Settles O28. -/

namespace Sys2Proof.Proofs

open Sys2Proof.Machine Sys2Proof.Claims

/-! ### Rows of bits -/

@[simp] theorem allZeroBits_iff {bs : List Bool} : allZeroBits bs = true ↔ true ∉ bs := by
  rw [allZeroBits, ← Bool.not_eq_false, List.all_eq_false]
  simp

theorem all_id_iff {bs : List Bool} : bs.all id = true ↔ false ∉ bs := by
  rw [← Bool.not_eq_false, List.all_eq_false]
  simp

@[simp] theorem popcount_eq_count (bs : List Bool) : popcount bs = bs.count true := by
  simp only [popcount, List.count]
  exact List.countP_congr fun b _ => by simp

theorem hasAdjacentOnes_iff {bs : List Bool} :
    hasAdjacentOnes bs = true ↔ ∃ c : Nat, bs[c]? = some true ∧ bs[c + 1]? = some true := by
  induction bs with
  | nil => simp [hasAdjacentOnes]
  | cons a bs ih =>
    cases bs with
    | nil => simp [hasAdjacentOnes]
    | cons b rest =>
      rw [hasAdjacentOnes, Bool.or_eq_true, ih, Bool.and_eq_true]
      constructor
      · rintro (⟨rfl, rfl⟩ | ⟨c, hc⟩)
        · exact ⟨0, rfl, rfl⟩
        · exact ⟨c + 1, hc⟩
      · rintro ⟨_ | c, h0, h1⟩
        · exact .inl ⟨by simpa using h0, by simpa using h1⟩
        · exact .inr ⟨c, h0, h1⟩

theorem twoAdjacentOnes_iff {bs : List Bool} :
    twoAdjacentOnes bs ↔ popcount bs = 2 ∧ hasAdjacentOnes bs = true := by
  rw [twoAdjacentOnes, popcount_eq_count, hasAdjacentOnes_iff]

/-! ### The planes of a line -/

theorem signedWords_four (line : Line) : signedWords 4 line = (List.range (line.length / 4)).map (bpcRow line) := by
  simp only [signedWords, lineWords, List.map_map]
  rfl

/-- The deltas of n rows: one for each row but the last (R186). -/
theorem bpcDeltas_map_range (row : Nat → Int) (n : Nat) :
    bpcDeltas ((List.range n).map row) =
      (List.range (n - 1)).map fun j => ((row (j + 1) - row j) % 2 ^ 33).toNat := by
  induction n generalizing row with
  | zero => rfl
  | succ n ih =>
    cases n with
    | zero => rfl
    | succ n =>
      have hrest := ih fun j => row (j + 1)
      simp only [List.range_succ_eq_map, List.map_cons, List.map_map, Nat.add_sub_cancel] at hrest ⊢
      rw [bpcDeltas]
      exact congrArg _ hrest

theorem deltaPlane_eq_dbpPlane (line : Line) (c : Nat) :
    deltaPlane (bpcDeltas (signedWords 4 line)) c = dbpPlane line c := by
  rw [signedWords_four, bpcDeltas_map_range, deltaPlane, List.map_map]
  rfl

theorem xorPlane_eq_dbxPlane (line : Line) (c : Nat) :
    xorPlane (bpcDeltas (signedWords 4 line)) c = dbxPlane line c := by
  simp only [xorPlane, deltaPlane_eq_dbpPlane]
  split
  case isTrue htop => exact List.map_congr_left fun j _ => by rw [dbxBit, if_pos htop]
  case isFalse hc =>
    rw [dbpPlane, dbpPlane, List.zipWith_map, List.zipWith_self]
    exact List.map_congr_left fun j _ => by rw [dbxBit, if_neg hc]

/-! ### The columns of a line -/

theorem zeroRunFrom_of_ones {line : Line} {c : Nat} (h : true ∈ dbxPlane line c) : zeroRunFrom line c = 0 := by
  unfold zeroRunFrom
  cases 33 - c with
  | zero => rfl
  | succ m => simp [List.range'_succ, h]

theorem zeroRunFrom_of_zeros {line : Line} {c : Nat} (hc : c ≤ 32) (h : true ∉ dbxPlane line c) :
    zeroRunFrom line c = zeroRunFrom line (c + 1) + 1 := by
  have hcols : 33 - c = (33 - (c + 1)) + 1 := by omega
  rw [zeroRunFrom, hcols, List.range'_succ]
  simp [zeroRunFrom, h]

/-- What the zero planes from column c upward still add when the columns below c are processed: the cost of their run if
it ends at c, else nothing yet (R188). -/
def pendingRun (p : Params) (line : Line) (c : Nat) : Nat :=
  if c = 0 ∨ true ∈ dbxPlane line (c - 1) then flushedRun p (zeroRunFrom line c) else 0

theorem columnBits_of_ones {p : Params} {line : Line} {c : Nat} (h : true ∈ dbxPlane line c) :
    columnBits p line c = planeCost (dbpPlane line c) (dbxPlane line c) := if_pos h

theorem columnBits_of_zeros {p : Params} {line : Line} {c : Nat} (hc : c ≤ 32) (h : true ∉ dbxPlane line c) :
    columnBits p line c = pendingRun p line c := by
  simp [columnBits, pendingRun, flushedRun, zeroRunFrom_of_zeros hc h, h]

theorem pendingRun_of_ones {p : Params} {line : Line} {c : Nat} (h : true ∈ dbxPlane line c) :
    pendingRun p line c = 0 := by
  simp [pendingRun, flushedRun, zeroRunFrom_of_ones h]

theorem pendingRun_succ_of_ones {p : Params} {line : Line} {c : Nat} (h : true ∈ dbxPlane line c) :
    pendingRun p line (c + 1) = flushedRun p (zeroRunFrom line (c + 1)) := if_pos (.inr h)

theorem pendingRun_succ_of_zeros {p : Params} {line : Line} {c : Nat} (h : true ∉ dbxPlane line c) :
    pendingRun p line (c + 1) = 0 := if_neg (by simp [h])

/-- The encoder's recursion, entered at column c with the zero run that it has met above, is the sum over the columns
below c and what that run still adds. -/
theorem planesCost_eq_sum (p : Params) (line : Line) (c : Nat) (hc : c ≤ 33) :
    planesCost p (bpcDeltas (signedWords 4 line)) (zeroRunFrom line c) c =
      pendingRun p line c + ((List.range c).map (columnBits p line)).sum := by
  induction c with
  | zero => simp [planesCost, pendingRun]
  | succ c ih =>
    have hbelow := ih (by omega)
    simp only [planesCost, xorPlane_eq_dbxPlane, deltaPlane_eq_dbpPlane, allZeroBits_iff, List.range_succ,
      List.map_append, List.sum_append, List.map_singleton, List.sum_singleton]
    by_cases h : true ∈ dbxPlane line c
    · rw [zeroRunFrom_of_ones h, pendingRun_of_ones h] at hbelow
      rw [if_neg (not_not_intro h), hbelow, pendingRun_succ_of_ones h, columnBits_of_ones h]
      omega
    · rw [zeroRunFrom_of_zeros (by omega) h] at hbelow
      rw [if_pos h, hbelow, pendingRun_succ_of_zeros h, columnBits_of_zeros (by omega) h]
      omega

/-- The bits of a line with at least one word, column by column (R188). -/
theorem bpcBits_eq_sum (p : Params) {line : Line} (hlen : 4 ≤ line.length) :
    bpcBits p line = firstWordCost p (bpcRow line 0) + ((List.range 33).map (columnBits p line)).sum := by
  have hfirst : (signedWords 4 line).headD 0 = bpcRow line 0 := by
    obtain ⟨n, hn⟩ : ∃ n, line.length / 4 = n + 1 := ⟨line.length / 4 - 1, by omega⟩
    rw [signedWords_four, hn, List.range_succ_eq_map]
    rfl
  have hplanes := planesCost_eq_sum p line 33 le_rfl
  have hnone : zeroRunFrom line 33 = 0 := rfl
  have hpending : pendingRun p line 33 = 0 := by simp [pendingRun, flushedRun, hnone]
  rw [hnone, hpending, Nat.zero_add] at hplanes
  rw [bpcBits, hfirst, hplanes]

/-! ### The categories -/

/-- The range of R189, with the default BPC_LOWER_BOUND. -/
theorem bpcInRange_default {p : Params} (h : p.bpcLowerBound = []) (n : Nat) (x : Int) :
    bpcInRange p n x = true ↔ -(2 ^ (n - 1)) ≤ x ∧ x ≤ 2 ^ (n - 1) - 1 := by
  simp only [bpcInRange, bpcLower, h, List.lookup_nil, Option.getD_none, decide_eq_true_iff, Int.le_sub_one_iff]

theorem firstWordClasses_hold : firstWordClasses := by
  intro p x hzero hlower
  simp [firstWordCost, hzero, bpcInRange_default hlower]

theorem planeCategories_hold : planeCategories := by
  intro dbp dbx _
  simp only [planeCost, allZeroBits_iff, all_id_iff, twoAdjacentOnes_iff, popcount_eq_count]
  refine ⟨fun hdbp => if_pos hdbp, fun hdbp => ⟨fun hfull => ?full, fun hfalse => ⟨fun hone => ?one, fun htwo => ?two,
    fun hone htwo => ?other⟩⟩⟩
  case full => simp [hdbp, hfull]
  case one => simp [hdbp, hfalse, hone]
  case two => simp [hdbp, hfalse, htwo]
  case other => simp [hdbp, hfalse, hone, htwo]

/-! ### The worst case -/

theorem firstWordCost_le (p : Params) (x : Int) : firstWordCost p x ≤ 33 := by
  unfold firstWordCost
  repeat' split
  all_goals omega

theorem planeCost_le (dbp dbx : List Bool) : planeCost dbp dbx ≤ 32 := by
  unfold planeCost
  repeat' split
  all_goals omega

/-- The run table without exceptions (R192; log 16). -/
theorem zrlCost_default {p : Params} (h : p.bpcZrlCost = []) (run : Nat) :
    zrlCost p run = if run = 1 then 3 else 7 := by
  simp [zrlCost, h]

theorem flushedRun_le {p : Params} (h : p.bpcZrlCost = []) (run : Nat) :
    flushedRun p run ≤ if 0 < run then 7 else 0 := by
  simp only [flushedRun, zrlCost_default h]
  repeat' split
  all_goals omega

/-- Each column adds at most 32 bits, on top of the run that is pending above it. -/
theorem planesCost_le {p : Params} (h : p.bpcZrlCost = []) (deltas : List Nat) (run c : Nat) :
    planesCost p deltas run c ≤ (if 0 < run then 7 else 0) + 32 * c := by
  induction c generalizing run with
  | zero => exact flushedRun_le h run
  | succ c ih =>
    simp only [planesCost]
    split
    case isTrue =>
      have hbelow := ih (run + 1)
      rw [if_pos (Nat.succ_pos run)] at hbelow
      omega
    case isFalse =>
      have hrun := flushedRun_le h run
      have hplane := planeCost_le (deltaPlane deltas c) (xorPlane deltas c)
      have hbelow := ih 0
      rw [if_neg (Nat.lt_irrefl 0)] at hbelow
      omega

theorem bpcBits_le {p : Params} (h : p.bpcZrlCost = []) (line : Line) : bpcBits p line ≤ 1089 := by
  have hfirst := firstWordCost_le p ((signedWords 4 line).headD 0)
  have hplanes := planesCost_le h (bpcDeltas (signedWords 4 line)) 0 33
  rw [if_neg (Nat.lt_irrefl 0)] at hplanes
  rw [bpcBits]
  omega

/-- Settles O28: the planes bit by bit, the sum over the columns, the categories, and the bound. -/
theorem bpcWorstCase : Obligations.BpcWorstCase := by
  refine ⟨fun p line => ⟨fun c _ => ⟨deltaPlane_eq_dbpPlane line c, xorPlane_eq_dbxPlane line c⟩,
    bpcBits_eq_sum p⟩, firstWordClasses_hold, planeCategories_hold, fun p h => ⟨?one, ?more, bpcBits_le h⟩⟩
  case one => rw [zrlCost_default h, if_pos rfl]
  case more => exact fun run hrun _ => by rw [zrlCost_default h, if_neg (by omega)]

end Sys2Proof.Proofs
end

section
/-! PROOFS. The shared engine (spec/10_state.md R47): ENG.COMPRESS is the COMPRESS of the encoder that ALG names. Settles
O19. -/

namespace Sys2Proof.Proofs

open Sys2Proof.Machine Sys2Proof.Claims

/-! ### What the encoder that ALG names does to the engine's parts -/

theorem engineLine_bdiState (p : Params) (a : Alg) (e : Engine) (line : Line) :
    (engineLine p a e line).2.bdiState = if a = .bdi then (bdiSelect p line).1 else e.bdiState := by
  cases a <;> rfl

theorem engineLine_dict (p : Params) (a : Alg) (e : Engine) (line : Line) :
    (engineLine p a e line).2.dict = if a = .cpack then (cpackLine p e.dict line).2 else e.dict := by
  cases a <;> rfl

theorem engineLine_sc2 (p : Params) (a : Alg) (e : Engine) (line : Line) :
    (engineLine p a e line).2.sc2 = if a = .sc2 then (sc2Line p e.sc2 line).2 else e.sc2 := by
  cases a <;> rfl

/-! ### ENG.COMPRESS -/

/-- The engine after a COMPRESS of a line: the named encoder's part, and the totals (R25, R47). -/
def engineAfter (p : Params) (a : Alg) (e : Engine) (line : Line) (byteCount : Nat) : Engine :=
  { (engineLine p a e line).2 with tot := e.tot.add byteCount (engineLine p a e line).1 }

theorem engineCompress_of_admitted {p : Params} {a : Alg} {n : Nat} (e : Engine) (supplied : Line)
    (halg : p.alg = some a) (hpos : n ≠ 0) (hunit : n % lineUnit a = 0) (hmax : n ≤ p.maxLineBytes) :
    engineCompress p e supplied n =
      .ok ((engineLine p a e (lineOf supplied n)).1, engineAfter p a e (lineOf supplied n) n) := by
  simp only [engineCompress, halg, lineOperand_of_admitted supplied hpos hunit hmax]
  rfl

theorem engCompress_completes {s : State} {a : Alg} {n : Nat} (hrun : runs .eng s) (halg : s.cfg.alg = some a)
    (hpos : n ≠ 0) (hunit : n % lineUnit a = 0) (hmax : n ≤ s.cfg.maxLineBytes) :
    exec (.engCompress n) s = .next { s with
      res := resOfBits (engineLine s.cfg a s.engine (lineOf s.opLine n)).1
      engine := engineAfter s.cfg a s.engine (lineOf s.opLine n) n } := by
  obtain ⟨hfault, hpresent⟩ := hrun
  have hline := engineCompress_of_admitted s.engine s.opLine halg hpos hunit hmax
  change execEngCompress n s = _
  exact runCommand_of_ok hfault hpresent (bind_eq_ok.2 ⟨_, hline, rfl⟩)

/-- Settles O19: the bits are `engineLine`'s, by the encoder, and its state is written back part by part. -/
theorem engCompressIsTheEncoderThatAlgNames : Obligations.EngCompressIsTheEncoderThatAlgNames := by
  intro s n a hrun halg hpos hunit hmax
  refine ⟨_, _, engCompress_completes hrun halg hpos hunit hmax, rfl, rfl, ?mpc, ?bdi, ?fpc, ?bpc, ?cpack, ?sc2,
    engineLine_bdiState s.cfg a s.engine _, ?dict, ?sc2State⟩
  case mpc | bdi | fpc | bpc | cpack | sc2 => rintro rfl; rfl
  case dict => exact fun hne => (engineLine_dict s.cfg a s.engine _).trans (if_neg hne)
  case sc2State => exact fun hne => (engineLine_sc2 s.cfg a s.engine _).trans (if_neg hne)

end Sys2Proof.Proofs
end

section
/-! PROOFS. Noninterference (spec/10_state.md R48, R49; spec/49_memory_link.md R336): what a command of a unit leaves as it
was. Settles O58. -/

namespace Sys2Proof.Proofs

open Sys2Proof.Machine Sys2Proof.Claims

/-- What a completed command of a unit is: a refusal, a raised fault, or the verb's own rule (R350, R349, R352). -/
theorem runCommand_eq_next {u : UnitId} {body : State → Except FaultCode State} {s t : State}
    (h : runCommand u body s = .next t) :
    t = refuse s ∨ (∃ f, t = raise f s) ∨ (runs u s ∧ body s = .ok t) := by
  rcases runCommand_cases u body s with ⟨_, e⟩ | ⟨_, _, e⟩ | ⟨hfault, hpresent, ⟨t', hb, e⟩ | ⟨f, _, e⟩⟩ <;>
    rw [e] at h <;> cases h
  · exact .inl rfl
  · exact .inr (.inl ⟨_, rfl⟩)
  · exact .inr (.inr ⟨⟨hfault, hpresent⟩, hb⟩)
  · exact .inr (.inl ⟨f, rfl⟩)

/-- Of two states, the second differs from the first only in the state of a unit (of the engine also for the three links,
log 9), in FAULT and in the result latches. -/
def WritesOnly (u : UnitId) (s t : State) : Prop :=
  (u ≠ .mpc → t.mpcTot = s.mpcTot) ∧
    (u ≠ .bdi → t.bdiTot = s.bdiTot ∧ t.bdiState = s.bdiState) ∧
    (u ≠ .fpc → t.fpcTot = s.fpcTot) ∧ (u ≠ .bpc → t.bpcTot = s.bpcTot) ∧
    (u ≠ .cpack → t.cpackTot = s.cpackTot ∧ t.cpackDict = s.cpackDict) ∧
    (u ≠ .sc2 → t.sc2Tot = s.sc2Tot ∧ t.sc2 = s.sc2) ∧
    (u ∉ [.eng, .lnk, .mldn, .mlup] → t.engine = s.engine) ∧
    (u ≠ .dq → t.dq = s.dq) ∧ (u ≠ .cdq → t.cdq = s.cdq) ∧
    (u ≠ .lnk → t.lnk = s.lnk) ∧
    (u ≠ .mldn → t.dn = s.dn ∧ t.remDn = s.remDn) ∧
    (u ≠ .mlup → t.up = s.up ∧ t.remUp = s.remUp) ∧
    t.cmd = s.cmd ∧ t.opTxn = s.opTxn ∧ t.opLine = s.opLine ∧ t.opBw = s.opBw ∧ t.opNow = s.opNow ∧
    t.inbox = s.inbox

theorem refuse_writesOnly (u : UnitId) (s : State) : WritesOnly u s (refuse s) := by simp [WritesOnly]

theorem raise_writesOnly (u : UnitId) (f : FaultCode) (s : State) : WritesOnly u s (raise f s) := by simp [WritesOnly]

theorem runCommand_writesOnly {u : UnitId} {body : State → Except FaultCode State} {s t : State}
    (hbody : body s = .ok t → WritesOnly u s t) (h : runCommand u body s = .next t) : WritesOnly u s t := by
  rcases runCommand_eq_next h with rfl | ⟨f, rfl⟩ | ⟨_, hb⟩
  · exact refuse_writesOnly u s
  · exact raise_writesOnly u f s
  · exact hbody hb

/-- A verb whose rule has no fault of its own. -/
theorem runCommand_total_writesOnly {u : UnitId} {f : State → State} {s t : State} (hf : WritesOnly u s (f s))
    (h : runCommand u (fun s => .ok (f s)) s = .next t) : WritesOnly u s t :=
  runCommand_writesOnly (fun hb => by cases hb; exact hf) h

/-- A verb whose rule first computes what can fault, then writes its result. -/
theorem runCommand_bind_writesOnly {α : Type} {u : UnitId} {x : State → Except FaultCode α} {f : State → α → State}
    {s t : State} (hf : ∀ a, WritesOnly u s (f s a))
    (h : runCommand u (fun s => x s >>= fun a => .ok (f s a)) s = .next t) : WritesOnly u s t :=
  runCommand_writesOnly (fun hb => by obtain ⟨a, _, ha⟩ := bind_eq_ok.1 hb; cases ha; exact hf a) h

theorem execCdqTop_writesOnly {s t : State} (h : execCdqTop s = .next t) : WritesOnly .cdq s t :=
  runCommand_writesOnly (fun hb => by
    cases hc : cdqTop s.cfg.cdq s.cdq s.opNow <;> simp only [hc] at hb <;> cases hb <;> simp [WritesOnly]) h

theorem exec_writesOnly {i : Instr} {s t : State} (hi : i ≠ .sysReset) (h : exec i s = .next t) :
    WritesOnly (unitOf i) s t := by
  unfold exec at h
  match i with
  | .sysReset => exact absurd rfl hi
  | .sysRdfault => cases h; simp [WritesOnly]
  | .mpcCompress _ | .bdiCompress _ | .fpcCompress _ | .bpcCompress _ | .cpackCompress _ | .sc2Compress _
  | .engCompress _ | .cdqPush _
  | .lnkPush _ | .lnkFull _ | .lnkStep _ | .lnkEmpty _ | .lnkTop _ | .lnkPop _
  | .mldnPush _ | .mldnFull _ | .mldnStep | .mldnEmpty _ | .mldnTop _ | .mldnPop _
  | .mlupPush _ | .mlupFull _ | .mlupStep | .mlupEmpty _ | .mlupTop _ | .mlupPop _ =>
    exact runCommand_bind_writesOnly (fun _ => by simp [WritesOnly, unitOf]) h
  | .mpcTotu | .mpcTotc | .bdiTotu | .bdiTotc | .bdiRdstate | .fpcTotu | .fpcTotc | .bpcTotu | .bpcTotc
  | .cpackTotu | .cpackTotc | .sc2Totu | .sc2Totc | .engTotu | .engTotc
  | .dqPush _ _ _ | .dqPop | .cdqPop | .cdqFull =>
    exact runCommand_total_writesOnly (by simp [WritesOnly, unitOf]) h
  | .cdqTop => exact execCdqTop_writesOnly h

/-- Settles O58: a refusal and a fault write no unit's state, and each verb's rule writes its own unit's. -/
theorem eachUnitWritesOnlyItsOwnState : Obligations.EachUnitWritesOnlyItsOwnState :=
  fun _ _ _ hi h => exec_writesOnly hi h

end Sys2Proof.Proofs
end

section
/-! PROOFS. The encoders' state stays in range (spec/10_state.md R28 to R30, R47): SC2's maps keep their canonical form and
its phases their counts, the dictionary its sixteen entries, the BDI latch a state code. -/

namespace Sys2Proof.Proofs

open Sys2Proof.Machine Sys2Proof.Claims

/-! ### SC2's maps -/

/-- The canonical form of a map is a matter of its symbols alone (log 20). -/
theorem symsRise_iff_keys {m : SymMap} :
    symsRise m = true ↔ (m.map Prod.fst).Pairwise fun a b => a.toNat < b.toNat := by
  induction m with
  | nil => simp [symsRise]
  | cons e m ih => simp only [symsRise_cons, ih, List.map_cons, List.pairwise_cons, List.forall_mem_map]

theorem symsRise_sublist {m m' : SymMap} (hsub : m'.Sublist m) (h : symsRise m = true) : symsRise m' = true :=
  symsRise_iff_keys.2 ((symsRise_iff_keys.1 h).sublist (hsub.map Prod.fst))

theorem countSyms_rises {m : SymMap} (syms : List Word32) (h : symsRise m = true) :
    symsRise (countSyms m syms) = true := by
  induction syms generalizing m with
  | nil => exact h
  | cons sym syms ih => exact ih (countSym_rises sym h)

/-- Every count of a sample is positive (R220). -/
def CountsPositive (m : SymMap) : Prop := ∀ e ∈ m, 0 < e.2

theorem countSym_positive {m : SymMap} (sym : Word32) (h : CountsPositive m) : CountsPositive (countSym sym m) := by
  induction m with
  | nil => exact List.forall_mem_singleton.2 Nat.one_pos
  | cons a m ih =>
    obtain ⟨ha, hm⟩ := List.forall_mem_cons.1 h
    simp only [countSym]
    split
    · exact List.forall_mem_cons.2 ⟨Nat.one_pos, h⟩
    · split
      · exact List.forall_mem_cons.2 ⟨Nat.succ_pos _, hm⟩
      · exact List.forall_mem_cons.2 ⟨ha, ih hm⟩

theorem countSyms_positive {m : SymMap} (syms : List Word32) (h : CountsPositive m) :
    CountsPositive (countSyms m syms) := by
  induction syms generalizing m with
  | nil => exact h
  | cons sym syms ih => exact ih (countSym_positive sym h)

/-! ### SC2's build -/

theorem prune_sublist (prefs : List Word32) (m : SymMap) : (prune prefs m).Sublist m := by
  unfold prune
  split
  · exact List.filter_sublist
  · exact .refl _

/-- Pruning leaves at most 1024 symbols (R226): of a map past the capacity only entries of the first 1024 stay, each
once. -/
theorem prune_length_le (prefs : List Word32) {m : SymMap} (h : symsRise m = true) :
    (prune prefs m).length ≤ sc2HeapCapacity := by
  by_cases hlarge : sc2HeapCapacity < m.length
  · have hnodup : (prune prefs m).Nodup := (symsRise_nodup h).sublist (prune_sublist prefs m)
    have hsub : prune prefs m ⊆ (sortBy (pruneBefore prefs) m).take sc2HeapCapacity :=
      fun _ he => (mem_prune_of_large hlarge).1 he
    exact (hnodup.subperm hsub).length_le.trans (List.length_take_le _ _)
  · simp only [prune, if_neg hlarge]
    omega

/-- The code lengths are those of the map's own symbols; the empty map has none (R228, R229). -/
theorem huffmanLengths_keys (p : Params) (m : SymMap) :
    huffmanLengths p m = [] ∨ (huffmanLengths p m).map Prod.fst = m.map Prod.fst := by
  unfold huffmanLengths
  split
  · exact .inl rfl
  · exact .inr (by simp [Function.comp_def])

theorem huffmanLengths_rises (p : Params) {m : SymMap} (h : symsRise m = true) :
    symsRise (huffmanLengths p m) = true := by
  rcases huffmanLengths_keys p m with hnone | hkeys
  · rw [hnone]; rfl
  · rw [symsRise_iff_keys, hkeys]; exact symsRise_iff_keys.1 h

theorem huffmanLengths_length_le (p : Params) (m : SymMap) : (huffmanLengths p m).length ≤ m.length := by
  rcases huffmanLengths_keys p m with hnone | hkeys
  · rw [hnone]; exact Nat.zero_le _
  · simpa using (congrArg List.length hkeys).le

theorem sc2Build_ok {p : Params} {c : Sc2} (hcalls : c.calls = p.sc2WarmupCalls) (h : symsRise c.freq = true) :
    sc2Ok p (sc2Build p c) = true := by
  have hkept : symsRise (prune p.sc2PruneOrder c.freq) = true := symsRise_sublist (prune_sublist _ _) h
  have hlength := (huffmanLengths_length_le p _).trans (prune_length_le p.sc2PruneOrder h)
  exact (sc2Ok_iff p _).2
    ⟨fun hphase => (nomatch hphase), fun _ => ⟨hcalls, rfl⟩, rfl, rfl, huffmanLengths_rises p hkept, hlength⟩

/-! ### SC2's calls -/

theorem sc2Sampled_ok {p : Params} {c : Sc2} (syms : List Word32) (hphase : c.phase = .sampling)
    (h : sc2Ok p c = true) : sc2Ok p (sc2Sampled p c syms) = true := by
  obtain ⟨hsampling, _, hrise, hpos, _, _⟩ := (sc2Ok_iff p c).1 h
  obtain ⟨hcalls, hcodes⟩ := hsampling hphase
  have hrise' := countSyms_rises syms hrise
  have hpos' : CountsPositive (countSyms c.freq syms) := countSyms_positive syms (by simpa [CountsPositive] using hpos)
  simp only [sc2Sampled]
  split
  case isTrue hlast => exact sc2Build_ok hlast hrise'
  case isFalse hmore =>
    have hbelow : c.calls + 1 < p.sc2WarmupCalls := Nat.lt_of_le_of_ne hcalls hmore
    refine (sc2Ok_iff p _).2
      ⟨fun _ => ⟨hbelow, hcodes⟩, fun hsteady => ?_, hrise', by simpa [CountsPositive] using hpos', ?_⟩
    · simp [hphase] at hsteady
    · simp [hcodes, symsRise]

theorem sc2Line_ok {p : Params} {c : Sc2} (line : Line) (h : sc2Ok p c = true) :
    sc2Ok p (sc2Line p c line).2 = true := by
  unfold sc2Line
  cases hphase : c.phase with
  | sampling => exact sc2Sampled_ok _ hphase h
  | steady => exact h

theorem resetSc2_ok (p : Params) : sc2Ok p (resetSc2 p) = true := by
  by_cases hT : p.sc2WarmupCalls = 0
  · simp [sc2Ok_iff, resetSc2, hT, symsRise]
  · simp [sc2Ok_iff, resetSc2, hT, symsRise, Nat.pos_of_ne_zero hT]

/-! ### The dictionary and the BDI latch -/

theorem cpackWords_length {p : Params} {d : Dict} (words : List Quad) (h : d.length = 16) :
    (cpackWords p d words).2.length = 16 := by
  induction words generalizing d with
  | nil => exact h
  | cons b words ih => exact ih (cpackWord_length b h)

theorem bdiConfigState_le {q : Nat} (h : q < 6) : (bdiConfigState q).toNat ≤ 8 := by
  simp only [bdiConfigState, BitVec.toNat_ofNat]
  omega

/-- The chosen state is one of the nine codes (R28): a chosen configuration is one of six. -/
theorem bdiSelect_state_le (p : Params) (line : Line) : (bdiSelect p line).1.toNat ≤ 8 := by
  have hconfigs : ∀ e ∈ bdiConfigs.zipIdx.map fun e => (e.2, e.1), e.1 < 6 := by decide
  unfold bdiSelect
  split
  · decide
  · split
    · decide
    · split
      case h_1 q c hcheapest =>
        obtain ⟨⟨bd, hmem, _⟩, _⟩ := cheapestConfig_spec hcheapest
        split
        · exact bdiConfigState_le (hconfigs _ hmem)
        · simp [bdiUncompressed]
      case h_2 => simp [bdiUncompressed]

/-! ### The engine -/

/-- The engine's state is in range, whatever encoder it is (R47). -/
def EngineOk (p : Params) (e : Engine) : Prop :=
  e.dict.length = 16 ∧ e.bdiState.toNat ≤ 8 ∧ sc2Ok p e.sc2 = true

theorem engineLine_ok {p : Params} {e : Engine} (a : Alg) (line : Line) (h : EngineOk p e) :
    EngineOk p (engineLine p a e line).2 := by
  obtain ⟨hdict, hbdi, hsc2⟩ := h
  cases a with
  | mpc | fpc | bpc => exact ⟨hdict, hbdi, hsc2⟩
  | bdi => exact ⟨hdict, bdiSelect_state_le p line, hsc2⟩
  | cpack => exact ⟨cpackWords_length _ hdict, hbdi, hsc2⟩
  | sc2 => exact ⟨hdict, hbdi, sc2Line_ok line hsc2⟩

theorem engineCompress_ok {p : Params} {e : Engine} {supplied : Line} {n : Nat} {r : Nat × Engine} (h : EngineOk p e)
    (hr : engineCompress p e supplied n = .ok r) : EngineOk p r.2 := by
  obtain ⟨a, _, _, rfl⟩ := engineCompress_eq_ok hr
  exact engineLine_ok a _ h

theorem compressTxn_ok {p : Params} {e : Engine} {t : Txn} {r : Nat × Engine} (h : EngineOk p e)
    (hr : compressTxn p e t = .ok r) : EngineOk p r.2 := by
  unfold compressTxn at hr
  split at hr
  · exact engineCompress_ok h hr
  · cases hr

end Sys2Proof.Proofs
end

section
/-! PROOFS. The queues of the block stay in range: the two rings (spec/10_state.md R35, R37; spec/46_delay_queues.md R245,
R257) and the arrays of ready and completed queues (R39, R42). -/

namespace Sys2Proof.Proofs

open Sys2Proof.Machine Sys2Proof.Claims

/-- What holds of every element and of a new one holds after the new one is stored. -/
theorem forall_mem_set {α : Type} {P : α → Prop} {l : List α} {a : α} (i : Nat) (h : ∀ x ∈ l, P x) (ha : P a) :
    ∀ x ∈ l.set i a, P x := by
  intro x hx
  rcases List.mem_or_eq_of_mem_set hx with hmem | rfl
  · exact h x hmem
  · exact ha

/-! ### The Delay Queue's ring -/

theorem dqOk_push {p : DqParams} {q : Dq} (f : Slot) (h : dqOk p q) : dqOk p (dqPush p q f) := by
  obtain ⟨hlen, hrd, _⟩ := h
  exact ⟨by simp [hlen], hrd, advance_lt (by omega) _⟩

theorem dqOk_afterPop {p : DqParams} {q : Dq} (h : dqOk p q) : dqOk p (dqAfterPop p q) := by
  obtain ⟨hlen, _, hwr⟩ := h
  refine ⟨?_, advance_lt (by omega) _, hwr⟩
  rw [dqAfterPop_slots]
  split <;> simp [hlen]

theorem forall_mem_dqAfterPop {p : DqParams} {q : Dq} {P : Slot → Prop} (h : ∀ f ∈ q.slots, P f)
    (hempty : P Slot.empty) : ∀ f ∈ (dqAfterPop p q).slots, P f := by
  rw [dqAfterPop_slots]
  split
  · exact forall_mem_set _ h hempty
  · exact h

/-- What a pop delivers stood in a slot of the ring. -/
theorem dqHead_mem {q : Dq} {t : Txn} (h : dqHead q = some t) : ∃ f ∈ q.slots, f.txn = some t := by
  unfold dqHead slotDelivers at h
  split at h
  · by_cases hrd : q.rd < q.slots.length
    · rw [List.getD_eq_getElem _ _ hrd] at h
      exact ⟨_, List.getElem_mem hrd, h⟩
    · rw [List.getD_eq_default _ _ (by omega)] at h
      cases h
  · cases h

/-! ### The Compressed Delay Queue's ring -/

theorem slotAt_set (slots : List CSlot) (i j : Nat) (c : CSlot) :
    (slots.set i c).getD j CSlot.empty = if i = j ∧ i < slots.length then c else slots.getD j CSlot.empty := by
  simp only [List.getD_eq_getElem?_getD, List.getElem?_set]
  by_cases hij : i = j
  · subst hij
    by_cases hi : i < slots.length <;> simp [hi]
  · simp [hij]

theorem cdqOk_push {p : CdqParams} {q q' : Cdq} {t : Txn} {size : Word32} {now : Word64} (h : cdqOk p q)
    (hpush : cdqPush p q t size now = .ok q') : cdqOk p q' := by
  obtain ⟨hlen, hrd, hcount, hwr, hocc⟩ := h
  rcases cdqPush_cases p q t size now with ⟨_, e⟩ | ⟨hroom, e⟩ <;> rw [e] at hpush <;> cases hpush
  refine ⟨by simp [hlen], hrd, ?count, ?wr, fun k hk => ?occupied⟩
  case count => simp only; omega
  case wr => simp only [hwr, Nat.mod_add_mod, Nat.add_assoc]
  case occupied =>
    have hin : q.wr < q.slots.length := by rw [hwr, hlen]; exact Nat.mod_lt _ (by omega)
    simp only [slotAt_set]
    split
    case isTrue => rfl
    case isFalse hother =>
      have hne : k ≠ q.count := fun hk => hother ⟨by rw [hwr, hk], hin⟩
      exact hocc k (by simp only at hk; omega)

theorem cdqOk_afterPop {p : CdqParams} {q : Cdq} (h : cdqOk p q) : cdqOk p (cdqAfterPop p q) := by
  rcases Nat.eq_zero_or_pos q.count with hempty | hpos
  · rw [cdqAfterPop_of_empty hempty]; exact h
  · obtain ⟨hlen, hrd, hcount, hwr, hocc⟩ := h
    rw [cdqAfterPop_of_pos hpos]
    refine ⟨by simp [hlen], Nat.mod_lt _ (by omega), ?count, ?wr, fun k hk => ?occupied⟩
    case count => simp only; omega
    case wr =>
      simp only [hwr, Nat.mod_add_mod]
      congr 1
      omega
    case occupied =>
      simp only at hk ⊢
      have hnext : ((q.rd + 1) % p.cap + k) % p.cap = (q.rd + (k + 1)) % p.cap := by
        rw [Nat.mod_add_mod]; congr 1; omega
      have hother : q.rd ≠ (q.rd + (k + 1)) % p.cap := by
        intro heq
        by_cases hwrap : q.rd + (k + 1) < p.cap
        · rw [Nat.mod_eq_of_lt hwrap] at heq; omega
        · rw [Nat.mod_eq_sub_mod (by omega), Nat.mod_eq_of_lt (by omega)] at heq; omega
      rw [hnext, slotAt_set, if_neg (fun hsame => hother hsame.1)]
      exact hocc (k + 1) (by omega)

/-- A visible head is an occupied slot, so it holds a transaction. -/
theorem cdqTop_txn {p : CdqParams} {q : Cdq} {now : Word64} {c : CSlot} (h : cdqOk p q)
    (htop : cdqTop p q now = some c) : c.txn.isSome = true := by
  obtain ⟨_, hrd, _, _, hocc⟩ := h
  obtain ⟨hpos, rfl, _⟩ := cdqTop_eq_some.1 htop
  simpa [Nat.mod_eq_of_lt hrd] using hocc 0 hpos

theorem forall_mem_cdqPush {p : CdqParams} {q q' : Cdq} {t : Txn} {size : Word32} {now : Word64} {P : CSlot → Prop}
    (h : ∀ c ∈ q.slots, P c) (ht : ∀ c, c.txn = some t → P c)
    (hpush : cdqPush p q t size now = .ok q') : ∀ c ∈ q'.slots, P c := by
  rcases cdqPush_cases p q t size now with ⟨_, e⟩ | ⟨_, e⟩ <;> rw [e] at hpush <;> cases hpush
  exact forall_mem_set _ h (ht _ rfl)

theorem forall_mem_cdqAfterPop {p : CdqParams} {q : Cdq} {P : CSlot → Prop} (h : ∀ c ∈ q.slots, P c)
    (hempty : P CSlot.empty) : ∀ c ∈ (cdqAfterPop p q).slots, P c := by
  unfold cdqAfterPop
  split
  · exact forall_mem_set _ h hempty
  · exact h

/-! ### Arrays of queues -/

theorem queueAt_mem_or_nil (qs : List (List Txn)) (i : Nat) : queueAt qs i ∈ qs ∨ queueAt qs i = [] := by
  unfold queueAt
  by_cases hi : i < qs.length
  · rw [List.getD_eq_getElem _ _ hi]; exact .inl (List.getElem_mem hi)
  · exact .inr (List.getD_eq_default _ _ (by omega))

theorem readyOk_queueAt {lp : LinkParams} {qs : List (List Txn)} (h : readyOk lp qs) (i : Nat) :
    (queueAt qs i).length ≤ lp.readyDepth ∧ (queueAt qs i).all (servable lp) = true := by
  rcases queueAt_mem_or_nil qs i with hmem | hnil
  · exact h.2 _ hmem
  · rw [hnil]; exact ⟨Nat.zero_le _, rfl⟩

theorem readyOk_enqAt {lp : LinkParams} {qs : List (List Txn)} {i : Nat} {t : Txn} (h : readyOk lp qs)
    (hroom : (queueAt qs i).length ≠ lp.readyDepth) (ht : servable lp t = true) : readyOk lp (enqAt qs i t) := by
  obtain ⟨hlen, hall⟩ := readyOk_queueAt h i
  refine ⟨by rw [enqAt_length, h.1], forall_mem_set i h.2 ⟨?_, ?_⟩⟩
  · rw [List.length_append, List.length_singleton]; omega
  · rw [List.all_append, hall]; simpa using ht

theorem readyOk_deqAt {lp : LinkParams} {qs : List (List Txn)} (i : Nat) (h : readyOk lp qs) :
    readyOk lp (deqAt qs i) := by
  obtain ⟨hlen, hall⟩ := readyOk_queueAt h i
  refine ⟨by rw [deqAt_length, h.1], forall_mem_set i h.2 ⟨?_, ?_⟩⟩
  · rw [List.length_tail]; omega
  · exact List.all_eq_true.2 fun t ht => List.all_eq_true.1 hall t (List.mem_of_mem_tail ht)

/-- The transaction that a source's queue offers is servable. -/
theorem readyOk_head {lp : LinkParams} {qs : List (List Txn)} {i : Nat} {t : Txn} {rest : List Txn} (h : readyOk lp qs)
    (hq : queueAt qs i = t :: rest) : servable lp t = true :=
  List.all_eq_true.1 (readyOk_queueAt h i).2 t (by simp [hq])

/-- A completed queue of destination d, within the depth (R39, R270). -/
def doneQueueOk (lp : LinkParams) (d : Nat) (q : List Txn) : Prop :=
  q.all (fun t => t.dst == d) = true ∧ (lp.doneDepth.all fun n => decide (q.length ≤ n)) = true

theorem doneQueueOk_append {lp : LinkParams} {l : Link} {t : Txn} (h : doneQueueOk lp t.dst (queueAt l.done t.dst))
    (hroom : doneFull lp l t.dst = false) : doneQueueOk lp t.dst (queueAt l.done t.dst ++ [t]) := by
  obtain ⟨hdst, hdepth⟩ := h
  refine ⟨by rw [List.all_append, hdst]; simp, ?_⟩
  cases hd : lp.doneDepth with
  | none => rfl
  | some n =>
    simp only [doneFull, hd, beq_eq_false_iff_ne] at hroom
    simp only [hd, Option.all_some, decide_eq_true_iff] at hdepth ⊢
    rw [List.length_append, List.length_singleton]
    omega

theorem doneQueueOk_tail {lp : LinkParams} {d : Nat} {q : List Txn} (h : doneQueueOk lp d q) :
    doneQueueOk lp d q.tail := by
  obtain ⟨hdst, hdepth⟩ := h
  refine ⟨List.all_eq_true.2 fun t ht => List.all_eq_true.1 hdst t (List.mem_of_mem_tail ht), ?_⟩
  cases hd : lp.doneDepth with
  | none => rfl
  | some n =>
    simp only [hd, Option.all_some, decide_eq_true_iff] at hdepth ⊢
    rw [List.length_tail]
    omega

/-- An array of completed queues stays in range when one queue is replaced by one in range. -/
theorem doneOk_set {lp : LinkParams} {qs : List (List Txn)} {i : Nat} {q : List Txn} (h : doneOk lp qs)
    (hq : i < lp.dests → doneQueueOk lp i q) : doneOk lp (qs.set i q) := by
  refine ⟨by rw [List.length_set, h.1], fun d hd => ?_⟩
  rw [queueAt_set]
  split
  case isTrue hid => obtain ⟨rfl, _⟩ := hid; exact hq hd
  case isFalse => exact h.2 d hd

theorem doneOk_deliver {lp : LinkParams} {l : Link} {t : Txn} (h : doneOk lp l.done)
    (hroom : doneFull lp l t.dst = false) : doneOk lp (enqAt l.done t.dst t) :=
  doneOk_set h fun hd => doneQueueOk_append (h.2 _ hd) hroom

theorem doneOk_deqAt {lp : LinkParams} {qs : List (List Txn)} (d : Nat) (h : doneOk lp qs) : doneOk lp (deqAt qs d) :=
  doneOk_set h fun hd => doneQueueOk_tail (h.2 _ hd)

/-! ### Reset -/

theorem dqParamsOk_cap {p : DqParams} (h : dqParamsOk p = true) : 1 ≤ p.cap := by
  simp only [dqParamsOk, decide_eq_true_iff] at h
  simp only [DqParams.cap]
  omega

theorem cdqParamsOk_cap {p : CdqParams} (h : cdqParamsOk p = true) : 1 ≤ p.cap := by
  simp only [cdqParamsOk, decide_eq_true_iff] at h
  simp only [CdqParams.cap]
  omega

theorem readyOk_reset (lp : LinkParams) : readyOk lp (List.replicate lp.sources []) :=
  ⟨List.length_replicate, fun q hq => by rw [List.eq_of_mem_replicate hq]; exact ⟨Nat.zero_le _, rfl⟩⟩

theorem doneOk_reset (lp : LinkParams) : doneOk lp (List.replicate lp.dests []) := by
  refine ⟨List.length_replicate, fun d hd => ?_⟩
  have hnil : queueAt (List.replicate lp.dests []) d = [] := by simp [queueAt]
  rw [hnil]
  exact ⟨rfl, by cases lp.doneDepth <;> simp⟩

theorem dqOk_reset {p : DqParams} (h : 1 ≤ p.cap) : dqOk p (resetDq p) :=
  ⟨List.length_replicate, h, Nat.mod_lt _ h⟩

theorem cdqOk_reset {p : CdqParams} (h : 1 ≤ p.cap) : cdqOk p (resetCdq p) :=
  ⟨List.length_replicate, h, Nat.zero_le _, (Nat.zero_mod _).symm, fun _ hk => absurd hk (Nat.not_lt_zero _)⟩

end Sys2Proof.Proofs
end

section
/-! PROOFS. A Oneway Link stays in range (spec/10_state.md R39 to R45): an invariant that holds between the parts of a step,
what each part does to it, and so what each verb does to `linkOk`. -/

namespace Sys2Proof.Proofs

open Sys2Proof.Machine Sys2Proof.Claims

/-! ### The parameters of a valid configuration -/

/-- What the operations of a link need of its parameters (R353; log 10). -/
theorem linkParamsOk_bounds {lp : LinkParams} (h : linkParamsOk lp = true) :
    (0 < lp.sources ∧ 0 < lp.flitBits ∧ 0 < lp.headBits) ∧ dqParamsOk lp.dq = true ∧
      (lp.kind = .compressed → cdqParamsOk lp.cdq = true) := by
  simp only [linkParamsOk, Bool.and_eq_true, Bool.or_eq_true, decide_eq_true_iff, beq_iff_eq] at h
  obtain ⟨⟨⟨⟨⟨⟨⟨hsources, _⟩, hflit⟩, hhead⟩, hdq⟩, hcdq⟩, _⟩, _⟩ := h
  exact ⟨⟨hsources.1, hflit, hhead⟩, hdq, fun hkind => hcdq.resolve_left (by simp [hkind])⟩

theorem sources_pos {lp : LinkParams} (h : linkParamsOk lp = true) : 0 < lp.sources := by
  obtain ⟨⟨hsources, _⟩, _⟩ := linkParamsOk_bounds h
  exact hsources

theorem flitBits_pos {lp : LinkParams} (h : linkParamsOk lp = true) : 0 < lp.flitBits := by
  obtain ⟨⟨_, hflit, _⟩, _⟩ := linkParamsOk_bounds h
  exact hflit

theorem headBits_pos {lp : LinkParams} (h : linkParamsOk lp = true) : 0 < lp.headBits := by
  obtain ⟨⟨_, _, hhead⟩, _⟩ := linkParamsOk_bounds h
  exact hhead

/-! ### The invariant inside a step -/

/-- The transaction that a slot may hold is servable. -/
def ServableSlot (lp : LinkParams) (t? : Option Txn) : Prop := t?.all (servable lp) = true

/-- A link between the parts of a step: in range as between commands, but the ring still lacks `owed` of the pushes that
keep its offset (46_delay_queues.md R245), and the leftovers of a compressed link may wait for the discard (48 R306). -/
structure MidStepOk (lp : LinkParams) (owed : Nat) (l : Link) : Prop where
  ready : readyOk lp l.ready
  readyLong : readyOk lp l.readyLong
  readyShort : readyOk lp l.readyShort
  done : doneOk lp l.done
  dq : dqOk lp.dq l.dq
  offset : l.dq.wr + owed ≡ l.dq.rd + lp.dq.latency [MOD lp.dq.cap]
  cdq : lp.kind = .compressed → cdqOk lp.cdq l.cdq
  flits : ∀ f ∈ l.dq.slots, ServableSlot lp f.txn
  longs : ∀ c ∈ l.cdq.slots, ServableSlot lp c.txn
  cur : ∀ c, l.cur = some c → 1 ≤ c.left ∧ servable lp c.txn = true
  rr : l.rr < lp.sources
  crr : l.crr < lp.sources
  leftover : l.leftover < lp.flitBits
  leftoverNodata : l.leftoverNodata < lp.flitBits
  plain : lp.kind = .plain → l.leftover = 0 ∧ l.leftoverNodata = 0

theorem inFlightOk_iff {lp : LinkParams} {l : Link} :
    inFlightOk lp l ↔ (∀ f ∈ l.dq.slots, ServableSlot lp f.txn) ∧ (∀ c ∈ l.cdq.slots, ServableSlot lp c.txn) ∧
      ∀ c, l.cur = some c → 1 ≤ c.left ∧ servable lp c.txn = true := by
  simp only [inFlightOk, List.all_eq_true, ServableSlot]
  cases l.cur <;> simp

/-- The invariant between commands is the one inside a step with no push owed and the leftovers discarded. -/
theorem linkOk_iff_midStepOk {lp : LinkParams} {l : Link} :
    linkOk lp l = true ↔ MidStepOk lp 0 l ∧ (l.cur = none → l.leftover = 0 ∧ l.leftoverNodata = 0) := by
  rw [linkOk_iff, inFlightOk_iff, Option.isNone_iff_eq_none]
  constructor
  · rintro ⟨hready, hlong, hshort, hdone, hdq, hoff, hcdq, ⟨hflits, hlongs, hcur⟩, hrr, hcrr, hleft, hnodata, hzero⟩
    have hoffset : l.dq.wr + 0 ≡ l.dq.rd + lp.dq.latency [MOD lp.dq.cap] := by
      rw [Nat.add_zero, hoff]; exact Nat.mod_modEq _ _
    exact ⟨⟨hready, hlong, hshort, hdone, hdq, hoffset, hcdq, hflits, hlongs, hcur, hrr, hcrr, hleft, hnodata,
      fun hplain => hzero (.inl hplain)⟩, fun hnone => hzero (.inr hnone)⟩
  · rintro ⟨h, hdiscarded⟩
    have hoff : l.dq.wr = (l.dq.rd + lp.dq.latency) % lp.dq.cap := by
      obtain ⟨_, _, hlt⟩ := h.dq
      have hwr := h.offset
      rwa [Nat.ModEq, Nat.add_zero, Nat.mod_eq_of_lt hlt] at hwr
    exact ⟨h.ready, h.readyLong, h.readyShort, h.done, h.dq, hoff, h.cdq, ⟨h.flits, h.longs, h.cur⟩, h.rr, h.crr,
      h.leftover, h.leftoverNodata, fun hzero => hzero.elim h.plain hdiscarded⟩

/-! ### PUSH and POP -/

theorem servable_of_pushed {lp : LinkParams} {t : Txn} (htype : t.badType = false ∨ lp.badTypeAt = .schedule)
    (hdst : t.dst < lp.dests) : servable lp t = true := by
  rcases htype with h | h <;> simp [servable, h, hdst]

theorem enqReady_ok {lp : LinkParams} {l : Link} {src : Nat} {t : Txn} (h : linkOk lp l = true)
    (hroom : (queueAt (readyOf lp l t) src).length ≠ lp.readyDepth) (ht : servable lp t = true) :
    linkOk lp (enqReady lp l src t) = true := by
  obtain ⟨hmid, hdiscarded⟩ := linkOk_iff_midStepOk.1 h
  rcases enqReady_cases lp l src t with ⟨_, hof, e⟩ | ⟨_, _, hof, e⟩ | ⟨_, _, hof, e⟩ <;>
    rw [hof] at hroom <;> rw [e, linkOk_iff_midStepOk]
  · exact ⟨{ hmid with ready := readyOk_enqAt hmid.ready hroom ht }, hdiscarded⟩
  · exact ⟨{ hmid with readyLong := readyOk_enqAt hmid.readyLong hroom ht }, hdiscarded⟩
  · exact ⟨{ hmid with readyShort := readyOk_enqAt hmid.readyShort hroom ht }, hdiscarded⟩

theorem linkPush_ok {lp : LinkParams} {l l' : Link} {src : Nat} {t : Txn} (h : linkOk lp l = true)
    (hpush : linkPush lp l src t = .ok l') : linkOk lp l' = true := by
  rcases linkPush_cases lp l src t with ⟨_, e⟩ | ⟨_, _, _, e⟩ | ⟨_, _, _, e⟩ | ⟨_, _, _, _, e⟩ |
    ⟨_, htype, hdst, hroom, e⟩ <;> rw [e] at hpush <;> cases hpush
  exact enqReady_ok h hroom (servable_of_pushed htype hdst)

theorem linkPop_ok {lp : LinkParams} {l : Link} (dst : Nat) (h : linkOk lp l = true) :
    linkOk lp (linkPop l dst) = true := by
  obtain ⟨hmid, hdiscarded⟩ := linkOk_iff_midStepOk.1 h
  exact linkOk_iff_midStepOk.2 ⟨{ hmid with done := doneOk_deqAt dst hmid.done }, hdiscarded⟩

/-! ### The pop phase -/

/-- A pop makes the ring owe one more push. -/
theorem MidStepOk.afterPop {lp : LinkParams} {owed : Nat} {l : Link} (h : MidStepOk lp owed l) :
    MidStepOk lp (owed + 1) { l with dq := dqAfterPop lp.dq l.dq } :=
  { h with
    dq := dqOk_afterPop h.dq
    offset := calc
      l.dq.wr + owed + 1 ≡ l.dq.rd + lp.dq.latency + 1 [MOD lp.dq.cap] := h.offset.add_right 1
      _ = l.dq.rd + 1 + lp.dq.latency := by omega
      _ ≡ advance lp.dq.cap l.dq.rd + lp.dq.latency [MOD lp.dq.cap] := ((Nat.mod_modEq _ _).add_right _).symm
    flits := forall_mem_dqAfterPop h.flits rfl }

theorem popOnce_ok {lp : LinkParams} {owed : Nat} {l l' : Link} (h : MidStepOk lp owed l)
    (hpop : popOnce lp l = .ok l') : MidStepOk lp (owed + 1) l' := by
  rcases popOnce_cases lp l with ⟨_, e⟩ | ⟨t, _, ⟨_, e⟩ | ⟨hroom, e⟩⟩ <;> rw [e] at hpop <;> cases hpop
  · exact h.afterPop
  · exact { h.afterPop with done := doneOk_deliver h.done hroom }

theorem popPhase_ok {lp : LinkParams} {owed n : Nat} {l l' : Link} (h : MidStepOk lp owed l)
    (hpop : popPhase lp n l = .ok l') : MidStepOk lp (owed + n) l' := by
  induction n generalizing owed l with
  | zero => cases hpop; exact h
  | succ n ih =>
    obtain ⟨m, hone, hrest⟩ := bind_eq_ok.1 hpop
    have hm := ih (popOnce_ok h hone) hrest
    rwa [Nat.add_assoc, Nat.add_comm 1 n] at hm

/-! ### The choice of a packet -/

theorem ceilDiv_pos {a b : Nat} (ha : 1 ≤ a) (hb : 1 ≤ b) : 1 ≤ ceilDiv a b :=
  (Nat.one_le_div_iff (by omega)).2 (by omega)

/-- Rounding up to whole flits leaves a pad of less than one flit. -/
theorem ceilDiv_mul_sub_lt {a b : Nat} (hb : 1 ≤ b) : ceilDiv a b * b - a < b := by
  have hle := Nat.div_mul_le_self (a + b - 1) b
  unfold ceilDiv
  omega

theorem packetFlits_pos {lp : LinkParams} (hlp : linkParamsOk lp = true) (t : Txn) : 1 ≤ packetFlits lp t := by
  have hhead := headBits_pos hlp
  refine ceilDiv_pos ?_ (flitBits_pos hlp)
  unfold packetBits
  split <;> omega

theorem leftoverUse_lt {lp : LinkParams} {need : Nat} (pad : Nat) (hneed : 1 ≤ need) :
    leftoverUse lp need pad < need := by
  unfold leftoverUse
  split <;> omega

theorem paddedFlits_pos {lp : LinkParams} {need : Nat} (hlp : linkParamsOk lp = true) (pad : Nat) (hneed : 1 ≤ need) :
    1 ≤ paddedFlits lp need pad :=
  ceilDiv_pos (Nat.sub_pos_of_lt (leftoverUse_lt pad hneed)) (flitBits_pos hlp)

theorem paddedRest_lt {lp : LinkParams} (hlp : linkParamsOk lp = true) (need pad : Nat) :
    paddedRest lp need pad < lp.flitBits :=
  ceilDiv_mul_sub_lt (flitBits_pos hlp)

section Choice

variable {lp : LinkParams} {owed : Nat} {l l' : Link}

theorem startShort_ok (hlp : linkParamsOk lp = true) (hkind : lp.kind = .compressed) {t : Txn}
    (h : MidStepOk lp owed l) (ht : servable lp t = true) : MidStepOk lp owed (startShort lp l t) :=
  { h with
    cur := fun c hc => by cases hc; exact ⟨paddedFlits_pos hlp _ (headBits_pos hlp), ht⟩
    leftoverNodata := paddedRest_lt hlp _ _
    plain := fun hplain => by rw [hkind] at hplain; cases hplain }

theorem startLong_ok (hlp : linkParamsOk lp = true) (hkind : lp.kind = .compressed) {t : Txn} (size : Nat)
    (h : MidStepOk lp owed l) (ht : servable lp t = true) : MidStepOk lp owed (startLong lp l t size) :=
  { h with
    cur := fun c hc => by
      cases hc
      exact ⟨paddedFlits_pos hlp _ (Nat.le_add_right_of_le (headBits_pos hlp)), ht⟩
    leftover := paddedRest_lt hlp _ _
    plain := fun hplain => by rw [hkind] at hplain; cases hplain }

theorem selectPlain_ok (hlp : linkParamsOk lp = true) (h : MidStepOk lp owed l)
    (hsel : selectPlain lp l = .ok l') : MidStepOk lp owed l' := by
  rcases selectPlain_eq_ok hsel with ⟨_, rfl⟩ | ⟨s, t, rest, hs, hq, _, rfl⟩
  · exact h
  · exact { h with
      ready := readyOk_deqAt s h.ready
      rr := (nextSource_some hs).1
      cur := fun c hc => by cases hc; exact ⟨packetFlits_pos hlp t, readyOk_head h.ready hq⟩ }

theorem serveShort_ok (hlp : linkParamsOk lp = true) (hkind : lp.kind = .compressed) (h : MidStepOk lp owed l)
    (hserve : serveShort lp l = .ok (some l')) : MidStepOk lp owed l' := by
  rcases serveShort_eq_ok hserve with ⟨_, e⟩ | ⟨s, t, rest, hs, hq, _, e⟩ <;> cases e
  have htaken : MidStepOk lp owed { l with readyShort := deqAt l.readyShort s, rr := s } :=
    { h with readyShort := readyOk_deqAt s h.readyShort, rr := (nextSource_some hs).1 }
  exact startShort_ok hlp hkind htaken (readyOk_head h.readyShort hq)

/-- A visible head is servable, for it stands in a slot of the compressed queue. -/
theorem MidStepOk.visible {c : CSlot} {t : Txn} (h : MidStepOk lp owed l)
    (htop : cdqTop lp.cdq l.cdq l.cycle = some c) (ht : c.txn = some t) : servable lp t = true := by
  obtain ⟨_, rfl, _⟩ := cdqTop_eq_some.1 htop
  by_cases hrd : l.cdq.rd < l.cdq.slots.length
  · have hslot := h.longs _ (List.getElem_mem hrd)
    rw [List.getD_eq_getElem _ _ hrd] at ht
    simpa [ServableSlot, ht] using hslot
  · rw [List.getD_eq_default _ _ (by omega)] at ht
    cases ht

theorem serveLong_ok (hlp : linkParamsOk lp = true) (hkind : lp.kind = .compressed) (h : MidStepOk lp owed l)
    (hserve : serveLong lp l = some l') : MidStepOk lp owed l' := by
  obtain ⟨c, t, htop, ht, rfl⟩ := serveLong_eq_some hserve
  have htaken : MidStepOk lp owed { l with cdq := cdqAfterPop lp.cdq l.cdq } :=
    { h with cdq := fun _ => cdqOk_afterPop (h.cdq hkind), longs := forall_mem_cdqAfterPop h.longs rfl }
  exact startLong_ok hlp hkind _ htaken (h.visible htop ht)

theorem selectNext_ok (hlp : linkParamsOk lp = true) (h : MidStepOk lp owed l)
    (hsel : selectNext lp l = .ok l') : MidStepOk lp owed l' := by
  rcases selectNext_eq_ok hsel with rfl | ⟨_, hplain⟩ | ⟨hkind, l'', hshort, rfl⟩ | ⟨hkind, hlong⟩
  · exact h
  · exact selectPlain_ok hlp h hplain
  · exact serveShort_ok hlp hkind h hshort
  · exact serveLong_ok hlp hkind h hlong

theorem withPacket_ok (hlp : linkParamsOk lp = true) (h : MidStepOk lp owed l)
    (hwith : withPacket lp l = .ok l') : MidStepOk lp owed l' := by
  rcases withPacket_eq_ok hwith with ⟨_, rfl⟩ | ⟨_, hsel⟩
  · exact h
  · exact selectNext_ok hlp h hsel

end Choice

/-! ### The push phase -/

/-- A push pays one of the pushes owed. -/
theorem MidStepOk.afterPush {lp : LinkParams} {owed : Nat} {l : Link} {f : Slot} (h : MidStepOk lp (owed + 1) l)
    (hf : ServableSlot lp f.txn) : MidStepOk lp owed { l with dq := dqPush lp.dq l.dq f } :=
  { h with
    dq := dqOk_push f h.dq
    offset := calc
      advance lp.dq.cap l.dq.wr + owed ≡ l.dq.wr + 1 + owed [MOD lp.dq.cap] := (Nat.mod_modEq _ _).add_right _
      _ = l.dq.wr + (owed + 1) := by omega
      _ ≡ l.dq.rd + lp.dq.latency [MOD lp.dq.cap] := h.offset
    flits := forall_mem_set _ h.flits hf }

theorem pushSlack_ok {lp : LinkParams} {n : Nat} {l : Link} (h : MidStepOk lp n l) :
    MidStepOk lp 0 (pushSlack lp n l) := by
  induction n generalizing l with
  | zero => exact h
  | succ n ih => exact ih (h.afterPush rfl)

theorem packetRest_ok {lp : LinkParams} {c c' : Packet} (h : servable lp c.txn = true) (hrest : c.rest = some c') :
    1 ≤ c'.left ∧ servable lp c'.txn = true := by
  unfold Packet.rest at hrest
  split at hrest
  · cases hrest
  · cases hrest; exact ⟨by simp only; omega, h⟩

theorem emitFlit_ok {lp : LinkParams} {owed : Nat} {l : Link} {c : Packet} (h : MidStepOk lp (owed + 1) l)
    (hc : l.cur = some c) : MidStepOk lp owed (emitFlit lp l c) :=
  have ht : servable lp c.txn = true := (h.cur c hc).2
  { h.afterPush (f := c.flit) ht with cur := fun _ hrest => packetRest_ok ht hrest }

theorem pushPhase_ok {lp : LinkParams} {n : Nat} {l l' : Link} (hlp : linkParamsOk lp = true) (h : MidStepOk lp n l)
    (hpush : pushPhase lp n l = .ok l') : MidStepOk lp 0 l' := by
  induction n generalizing l with
  | zero => cases hpush; exact h
  | succ n ih =>
    obtain ⟨m, hwith, hrest⟩ := bind_eq_ok.1 hpush
    have hm := withPacket_ok hlp h hwith
    split at hrest
    case h_1 => cases hrest; exact pushSlack_ok hm
    case h_2 c hc => exact ih (emitFlit_ok hm hc) hrest

/-! ### The compression pass -/

section Pass

variable {p : Params} {lp : LinkParams} {owed : Nat}

/-- The link and the engine are in range between two transactions of the pass. -/
def PassOk (p : Params) (lp : LinkParams) (owed : Nat) (x : PassState) : Prop :=
  MidStepOk lp owed x.link ∧ EngineOk p x.engine

theorem compressOne_ok (hkind : lp.kind = .compressed) {s : Nat} {x y : PassState} (h : PassOk p lp owed x)
    (hone : compressOne p lp s x = .ok y) : PassOk p lp owed y := by
  rcases compressOne_eq_ok hone with ⟨_, rfl⟩ | ⟨_, rfl⟩ | ⟨t, rest, bits, e, q, hq, _, hcomp, hpush, rfl⟩
  · exact h
  · exact h
  · obtain ⟨hlink, hengine⟩ := h
    have ht : servable lp t = true := readyOk_head hlink.readyLong hq
    exact ⟨{ hlink with
      readyLong := readyOk_deqAt s hlink.readyLong
      cdq := fun _ => cdqOk_push (hlink.cdq hkind) hpush
      longs := forall_mem_cdqPush hlink.longs (fun c hc => by simpa [ServableSlot, hc] using ht) hpush },
      compressTxn_ok hengine hcomp⟩

theorem compressSource_ok (hkind : lp.kind = .compressed) {s n : Nat} {x y : PassState} (h : PassOk p lp owed x)
    (hsource : compressSource p lp s n x = .ok y) : PassOk p lp owed y := by
  induction n generalizing x with
  | zero => cases hsource; exact h
  | succ n ih =>
    obtain ⟨z, hone, hrest⟩ := bind_eq_ok.1 hsource
    exact ih (compressOne_ok hkind h hone) hrest

theorem compressSweep_ok (hkind : lp.kind = .compressed) {ss : List Nat} {x y : PassState} (h : PassOk p lp owed x)
    (hsweep : compressSweep p lp ss x = .ok y) : PassOk p lp owed y := by
  induction ss generalizing x with
  | nil => cases hsweep; exact h
  | cons s ss ih =>
    obtain ⟨z, hsource, hrest⟩ := bind_eq_ok.1 hsweep
    exact ih (compressSource_ok hkind h hsource) hrest

theorem compressionPass_ok (hlp : linkParamsOk lp = true) (hkind : lp.kind = .compressed) {l l' : Link}
    {e e' : Engine} (hl : MidStepOk lp owed l) (he : EngineOk p e)
    (hpass : compressionPass p lp l e = .ok (l', e')) : MidStepOk lp owed l' ∧ EngineOk p e' := by
  obtain ⟨x, hsweep, hcursor⟩ := bind_eq_ok.1 hpass
  obtain ⟨hlink, hengine⟩ : PassOk p lp owed x := compressSweep_ok hkind ⟨hl, he⟩ hsweep
  split at hcursor <;> cases hcursor
  · exact ⟨hlink, hengine⟩
  · exact ⟨{ hlink with crr := Nat.mod_lt _ (sources_pos hlp) }, hengine⟩

end Pass

/-! ### STEP and reset -/

/-- With every push made, the discard and the tick end a compressed step in range (48 R306, R307, R309). -/
theorem tick_discard_ok {lp : LinkParams} {l : Link} (hlp : linkParamsOk lp = true) (h : MidStepOk lp 0 l) :
    linkOk lp (tick (discardLeftover l)) = true := by
  have hflit := flitBits_pos hlp
  rw [linkOk_iff_midStepOk]
  rcases discardLeftover_cases l with ⟨_, e⟩ | ⟨⟨c, hc⟩, e⟩ <;> rw [e]
  · exact ⟨{ h with leftover := hflit, leftoverNodata := hflit, plain := fun _ => ⟨rfl, rfl⟩ }, fun _ => ⟨rfl, rfl⟩⟩
  · exact ⟨{ h with ready := h.ready }, fun hnone => by rw [tick_cur, hc] at hnone; cases hnone⟩

theorem linkStep_ok {p : Params} {lp : LinkParams} {l l' : Link} {e e' : Engine} {n : Nat}
    (hlp : linkParamsOk lp = true) (hl : linkOk lp l = true) (he : EngineOk p e)
    (hstep : linkStep p lp l e n = .ok (l', e')) : linkOk lp l' = true ∧ EngineOk p e' := by
  obtain ⟨hmid, _⟩ := linkOk_iff_midStepOk.1 hl
  rcases linkStep_eq_ok hstep with ⟨hkind, rfl, m, hpop, hpush⟩ | ⟨hkind, m, k, j, hpop, rfl, horder⟩
  · have hm : MidStepOk lp n m := by simpa using popPhase_ok hmid hpop
    have hl' := pushPhase_ok hlp hm hpush
    exact ⟨linkOk_iff_midStepOk.2 ⟨hl', fun _ => hl'.plain hkind⟩, he⟩
  · have hm : MidStepOk lp n m := by simpa using popPhase_ok hmid hpop
    have hj : MidStepOk lp 0 j ∧ EngineOk p e' := by
      rcases horder with ⟨_, hpush, hpass⟩ | ⟨_, hpass, hpush⟩
      · exact compressionPass_ok hlp hkind (pushPhase_ok hlp hm hpush) he hpass
      · obtain ⟨hk, he'⟩ := compressionPass_ok hlp hkind hm he hpass
        exact ⟨pushPhase_ok hlp hk hpush, he'⟩
    exact ⟨tick_discard_ok hlp hj.1, hj.2⟩

theorem resetLink_ok {lp : LinkParams} (hlp : linkParamsOk lp = true) : linkOk lp (resetLink lp) = true := by
  obtain ⟨⟨hsources, hflit, _⟩, hdq, hcdq⟩ := linkParamsOk_bounds hlp
  refine linkOk_iff_midStepOk.2 ⟨?_, fun _ => ⟨rfl, rfl⟩⟩
  exact {
    ready := readyOk_reset lp
    readyLong := readyOk_reset lp
    readyShort := readyOk_reset lp
    done := doneOk_reset lp
    dq := dqOk_reset (dqParamsOk_cap hdq)
    offset := by
      rw [resetLink_dq, resetDq_wr, resetDq_rd, Nat.add_zero, Nat.zero_add]
      exact Nat.mod_modEq _ _
    cdq := fun hkind => cdqOk_reset (cdqParamsOk_cap (hcdq hkind))
    flits := fun f hf => by rw [List.eq_of_mem_replicate hf]; rfl
    longs := fun c hc => by rw [List.eq_of_mem_replicate hc]; rfl
    cur := fun c hc => nomatch hc
    rr := hsources
    crr := hsources
    leftover := hflit
    leftoverNodata := hflit
    plain := fun _ => ⟨rfl, rfl⟩ }

end Sys2Proof.Proofs
end

section
/-! PROOFS. The invariant of the machine (Sys2Proof/Safety.lean): what of it each update of the state touches, and that each
command, each word that is no command and each reset keeps it. Settles O59. -/

namespace Sys2Proof.Proofs

open Sys2Proof.Machine Sys2Proof.Claims

/-! ### The parts of a valid configuration -/

/-- The parameters of the queues and links that a block with a valid configuration contains (R353; log 10). -/
theorem configOk_units {p : Params} (h : configOk p = true) :
    (p.has .dq = true → dqParamsOk p.dq = true) ∧ (p.has .cdq = true → cdqParamsOk p.cdq = true) ∧
      (p.has .lnk = true → linkParamsOk p.lnk = true) ∧ (p.has .mldn = true → linkParamsOk p.dnLink = true) ∧
      (p.has .mlup = true → linkParamsOk p.upLink = true) := by
  simp only [configOk, Bool.and_eq_true, Bool.or_eq_true, Bool.not_eq_true', ← Bool.not_eq_true,
    ← imp_iff_not_or] at h
  obtain ⟨⟨⟨⟨⟨_, hdq⟩, hcdq⟩, hlnk⟩, hdn⟩, hup⟩ := h
  exact ⟨hdq, hcdq, hlnk, hdn, hup⟩

/-! ### What of the invariant a unit that runs may use -/

section Running

variable {s : State}

/-- Without a fault the configuration is valid, so the queues and links of the block are in range. -/
theorem config_of_runs {u : UnitId} (h : s.wf) (hrun : runs u s) : configOk s.cfg = true ∧ unitsOk s = true := by
  obtain ⟨hregs, _, hunits⟩ := h
  obtain ⟨_, hconfig, _⟩ := (registersOk_iff s).1 hregs
  have hvalid := hconfig hrun.1
  exact ⟨hvalid, hunits hvalid⟩

theorem dqOk_of_runs (h : s.wf) (hrun : runs .dq s) : dqOk s.cfg.dq s.dq := by
  obtain ⟨hdq, _⟩ := (unitsOk_iff s).1 (config_of_runs h hrun).2
  exact hdq hrun.2

theorem cdqOk_of_runs (h : s.wf) (hrun : runs .cdq s) : cdqOk s.cfg.cdq s.cdq := by
  obtain ⟨_, hcdq, _⟩ := (unitsOk_iff s).1 (config_of_runs h hrun).2
  exact hcdq hrun.2

theorem lnkOk_of_runs (h : s.wf) (hrun : runs .lnk s) :
    linkParamsOk s.cfg.lnk = true ∧ linkOk s.cfg.lnk s.lnk = true := by
  obtain ⟨hvalid, hunits⟩ := config_of_runs h hrun
  obtain ⟨_, _, hparams, _, _⟩ := configOk_units hvalid
  obtain ⟨_, _, hlnk, _, _⟩ := (unitsOk_iff s).1 hunits
  exact ⟨hparams hrun.2, hlnk hrun.2⟩

theorem dnOk_of_runs (h : s.wf) (hrun : runs .mldn s) :
    linkParamsOk s.cfg.dnLink = true ∧ linkOk s.cfg.dnLink s.dn = true := by
  obtain ⟨hvalid, hunits⟩ := config_of_runs h hrun
  obtain ⟨_, _, _, hparams, _⟩ := configOk_units hvalid
  obtain ⟨_, _, _, hdn, _⟩ := (unitsOk_iff s).1 hunits
  exact ⟨hparams hrun.2, hdn hrun.2⟩

theorem upOk_of_runs (h : s.wf) (hrun : runs .mlup s) :
    linkParamsOk s.cfg.upLink = true ∧ linkOk s.cfg.upLink s.up = true := by
  obtain ⟨hvalid, hunits⟩ := config_of_runs h hrun
  obtain ⟨_, _, _, _, hparams⟩ := configOk_units hvalid
  obtain ⟨_, _, _, _, hup⟩ := (unitsOk_iff s).1 hunits
  exact ⟨hparams hrun.2, hup hrun.2⟩

theorem engineOk_of_wf (h : s.wf) : EngineOk s.cfg s.engine := by
  obtain ⟨_, hdict, _, hbdi, _, hsc2⟩ := (encodersOk_iff s).1 h.2.1
  exact ⟨hdict, hbdi, hsc2⟩

theorem sc2Ok_of_wf (h : s.wf) : sc2Ok s.cfg s.sc2 = true := by
  obtain ⟨_, _, _, _, hsc2, _⟩ := (encodersOk_iff s).1 h.2.1
  exact hsc2

theorem cpackDict_length_of_wf (h : s.wf) : s.cpackDict.length = 16 := ((encodersOk_iff s).1 h.2.1).1

end Running

/-! ### One update of the state at a time -/

section Updates

variable {s : State}

theorem wf_fault (h : s.wf) (f : FaultCode) : State.wf { s with fault := f.code } := by
  obtain ⟨hregs, hencoders, hunits⟩ := h
  obtain ⟨_, _, hrest⟩ := (registersOk_iff s).1 hregs
  exact ⟨(registersOk_iff _).2 ⟨f.code_le_eight, fun hzero => absurd hzero f.code_ne_zero, hrest⟩, hencoders, hunits⟩

theorem wf_resTxn (h : s.wf) (t? : Option Txn) : State.wf { s with resTxn := t?, resValid := t?.isSome } := by
  obtain ⟨hregs, hencoders, hunits⟩ := h
  obtain ⟨hfault, hconfig, _, hrest⟩ := (registersOk_iff s).1 hregs
  exact ⟨(registersOk_iff _).2 ⟨hfault, hconfig, rfl, hrest⟩, hencoders, hunits⟩

theorem wf_remDn (h : s.wf) {r : Nat} (hr : r < 2 ^ s.cfg.bwFrac) : State.wf { s with remDn := r } := by
  obtain ⟨hregs, hencoders, hunits⟩ := h
  obtain ⟨hfault, hconfig, hvalid, _, hrest⟩ := (registersOk_iff s).1 hregs
  exact ⟨(registersOk_iff _).2 ⟨hfault, hconfig, hvalid, hr, hrest⟩, hencoders, hunits⟩

theorem wf_remUp (h : s.wf) {r : Nat} (hr : r < 2 ^ s.cfg.bwFrac) : State.wf { s with remUp := r } := by
  obtain ⟨hregs, hencoders, hunits⟩ := h
  obtain ⟨hfault, hconfig, hvalid, hdn, _, hline⟩ := (registersOk_iff s).1 hregs
  exact ⟨(registersOk_iff _).2 ⟨hfault, hconfig, hvalid, hdn, hr, hline⟩, hencoders, hunits⟩

theorem wf_opLine (h : s.wf) {line : Line} (hline : line.length ≤ 128) : State.wf { s with opLine := line } := by
  obtain ⟨hregs, hencoders, hunits⟩ := h
  obtain ⟨hfault, hconfig, hvalid, hdn, hup, _⟩ := (registersOk_iff s).1 hregs
  exact ⟨(registersOk_iff _).2 ⟨hfault, hconfig, hvalid, hdn, hup, hline⟩, hencoders, hunits⟩

theorem wf_bdiState (h : s.wf) {b : BitVec 4} (hb : b.toNat ≤ 8) : State.wf { s with bdiState := b } := by
  obtain ⟨hregs, hencoders, hunits⟩ := h
  obtain ⟨hdict, hengDict, _, hrest⟩ := (encodersOk_iff s).1 hencoders
  exact ⟨hregs, (encodersOk_iff _).2 ⟨hdict, hengDict, hb, hrest⟩, hunits⟩

theorem wf_cpackDict (h : s.wf) {d : Dict} (hd : d.length = 16) : State.wf { s with cpackDict := d } := by
  obtain ⟨hregs, hencoders, hunits⟩ := h
  obtain ⟨_, hrest⟩ := (encodersOk_iff s).1 hencoders
  exact ⟨hregs, (encodersOk_iff _).2 ⟨hd, hrest⟩, hunits⟩

theorem wf_sc2 (h : s.wf) {c : Sc2} (hc : sc2Ok s.cfg c = true) : State.wf { s with sc2 := c } := by
  obtain ⟨hregs, hencoders, hunits⟩ := h
  obtain ⟨hdict, hengDict, hbdi, hengBdi, _, hengSc2⟩ := (encodersOk_iff s).1 hencoders
  exact ⟨hregs, (encodersOk_iff _).2 ⟨hdict, hengDict, hbdi, hengBdi, hc, hengSc2⟩, hunits⟩

theorem wf_engine (h : s.wf) {e : Engine} (he : EngineOk s.cfg e) : State.wf { s with engine := e } := by
  obtain ⟨hregs, hencoders, hunits⟩ := h
  obtain ⟨hdict, _, hbdi, _, hsc2, _⟩ := (encodersOk_iff s).1 hencoders
  obtain ⟨hengDict, hengBdi, hengSc2⟩ := he
  exact ⟨hregs, (encodersOk_iff _).2 ⟨hdict, hengDict, hbdi, hengBdi, hsc2, hengSc2⟩, hunits⟩

theorem wf_dq (h : s.wf) {q : Dq} (hq : dqOk s.cfg.dq q) : State.wf { s with dq := q } := by
  obtain ⟨hregs, hencoders, hunits⟩ := h
  refine ⟨hregs, hencoders, fun hvalid => ?_⟩
  obtain ⟨_, hrest⟩ := (unitsOk_iff s).1 (hunits hvalid)
  exact (unitsOk_iff _).2 ⟨fun _ => hq, hrest⟩

theorem wf_cdq (h : s.wf) {q : Cdq} (hq : cdqOk s.cfg.cdq q) : State.wf { s with cdq := q } := by
  obtain ⟨hregs, hencoders, hunits⟩ := h
  refine ⟨hregs, hencoders, fun hvalid => ?_⟩
  obtain ⟨hdq, _, hrest⟩ := (unitsOk_iff s).1 (hunits hvalid)
  exact (unitsOk_iff _).2 ⟨hdq, fun _ => hq, hrest⟩

theorem wf_lnk (h : s.wf) {l : Link} (hl : linkOk s.cfg.lnk l = true) : State.wf { s with lnk := l } := by
  obtain ⟨hregs, hencoders, hunits⟩ := h
  refine ⟨hregs, hencoders, fun hvalid => ?_⟩
  obtain ⟨hdq, hcdq, _, hrest⟩ := (unitsOk_iff s).1 (hunits hvalid)
  exact (unitsOk_iff _).2 ⟨hdq, hcdq, fun _ => hl, hrest⟩

theorem wf_dn (h : s.wf) {l : Link} (hl : linkOk s.cfg.dnLink l = true) : State.wf { s with dn := l } := by
  obtain ⟨hregs, hencoders, hunits⟩ := h
  refine ⟨hregs, hencoders, fun hvalid => ?_⟩
  obtain ⟨hdq, hcdq, hlnk, _, hup⟩ := (unitsOk_iff s).1 (hunits hvalid)
  exact (unitsOk_iff _).2 ⟨hdq, hcdq, hlnk, fun _ => hl, hup⟩

theorem wf_up (h : s.wf) {l : Link} (hl : linkOk s.cfg.upLink l = true) : State.wf { s with up := l } := by
  obtain ⟨hregs, hencoders, hunits⟩ := h
  refine ⟨hregs, hencoders, fun hvalid => ?_⟩
  obtain ⟨hdq, hcdq, hlnk, hdn, _⟩ := (unitsOk_iff s).1 (hunits hvalid)
  exact (unitsOk_iff _).2 ⟨hdq, hcdq, hlnk, hdn, fun _ => hl⟩

end Updates

/-! ### Refusal, fault and reset -/

theorem refuse_wf {s : State} (h : s.wf) : (refuse s).wf := wf_resTxn h none

theorem raise_wf {s : State} (f : FaultCode) (h : s.wf) : (raise f s).wf := wf_fault (refuse_wf h) f

theorem resetFault_le (p : Params) : (resetFault p).toNat ≤ 8 := by
  unfold resetFault
  split <;> decide

theorem configOk_of_resetFault {p : Params} (h : resetFault p = 0) : configOk p = true := by
  unfold resetFault at h
  split at h
  · assumption
  · exact absurd h (FaultCode.code_ne_zero .config)

theorem resetFor_unitsOk {p : Params} (h : configOk p = true) : unitsOk (State.resetFor p) = true := by
  obtain ⟨hdq, hcdq, hlnk, hdn, hup⟩ := configOk_units h
  exact (unitsOk_iff _).2 ⟨fun hu => dqOk_reset (dqParamsOk_cap (hdq hu)),
    fun hu => cdqOk_reset (cdqParamsOk_cap (hcdq hu)), fun hu => resetLink_ok (hlnk hu),
    fun hu => resetLink_ok (hdn hu), fun hu => resetLink_ok (hup hu)⟩

theorem resetFor_encodersOk (p : Params) : encodersOk (State.resetFor p) = true :=
  (encodersOk_iff _).2 ⟨List.length_replicate, List.length_replicate, Nat.le_refl 8, Nat.le_refl 8, resetSc2_ok p,
    resetSc2_ok p⟩

theorem resetFor_registersOk (p : Params) : registersOk (State.resetFor p) = true :=
  (registersOk_iff _).2 ⟨resetFault_le p, configOk_of_resetFault, rfl, Nat.two_pow_pos _, Nat.two_pow_pos _,
    (List.length_replicate (a := (0 : Byte))).le⟩

/-- The reset state of a block with any parameters (R380). -/
theorem resetFor_wf (p : Params) : (State.resetFor p).wf :=
  ⟨resetFor_registersOk p, resetFor_encodersOk p, resetFor_unitsOk⟩

/-- A reset leaves the line latch alone (R380), and it was in range. -/
theorem reinit_wf {s : State} (h : s.wf) : s.reinit.wf := by
  obtain ⟨_, _, _, _, _, hline⟩ := (registersOk_iff s).1 h.1
  exact wf_opLine (resetFor_wf s.cfg) hline

/-! ### The commands -/

/-- The command, run from a well-formed state, ends in one. -/
def KeepsWf (s : State) (o : Host.Outcome State Fault Refusal) : Prop := s.wf → ∀ t, o = .next t → t.wf

section Commands

variable {u : UnitId} {s : State}

theorem runCommand_keepsWf {body : State → Except FaultCode State}
    (hbody : s.wf → runs u s → ∀ t, body s = .ok t → t.wf) : KeepsWf s (runCommand u body s) := by
  intro h t ht
  rcases runCommand_eq_next ht with rfl | ⟨f, rfl⟩ | ⟨hrun, hb⟩
  · exact refuse_wf h
  · exact raise_wf f h
  · exact hbody h hrun t hb

/-- A verb whose rule has no fault of its own. -/
theorem runCommand_total_keepsWf {f : State → State} (hf : s.wf → runs u s → (f s).wf) :
    KeepsWf s (runCommand u (fun s => .ok (f s)) s) :=
  runCommand_keepsWf fun h hrun _ hb => by cases hb; exact hf h hrun

/-- A verb whose rule first computes what can fault, then writes its result. -/
theorem runCommand_bind_keepsWf {α : Type} {x : State → Except FaultCode α} {f : State → α → State}
    (hf : s.wf → runs u s → ∀ a, x s = .ok a → (f s a).wf) :
    KeepsWf s (runCommand u (fun s => x s >>= fun a => .ok (f s a)) s) :=
  runCommand_keepsWf fun h hrun _ hb => by
    obtain ⟨a, hx, ha⟩ := bind_eq_ok.1 hb
    cases ha
    exact hf h hrun a hx

end Commands

theorem bwRemainder_lt (p : Params) (bw rem : Nat) : bwRemainder p bw rem < 2 ^ p.bwFrac :=
  Nat.mod_lt _ (Nat.two_pow_pos _)

theorem execCdqTop_keepsWf (s : State) : KeepsWf s (execCdqTop s) := by
  refine runCommand_keepsWf fun h hrun t hb => ?_
  cases htop : cdqTop s.cfg.cdq s.cdq s.opNow with
  | none => simp only [htop] at hb; cases hb; exact wf_resTxn h none
  | some c =>
    simp only [htop] at hb
    cases hb
    have htxn : c.txn.isSome = true := cdqTop_txn (cdqOk_of_runs h hrun) htop
    have hwf := wf_resTxn h c.txn
    rwa [htxn] at hwf

theorem exec_keepsWf (i : Instr) (s : State) : KeepsWf s (exec i s) := by
  unfold exec
  match i with
  | .sysReset => exact fun h t ht => by cases ht; exact reinit_wf h
  | .sysRdfault => exact fun h t ht => by cases ht; exact h
  | .mpcCompress _ | .fpcCompress _ | .bpcCompress _ | .lnkFull _ | .lnkEmpty _ | .mldnFull _ | .mldnEmpty _
  | .mlupFull _ | .mlupEmpty _ => exact runCommand_bind_keepsWf fun h _ _ _ => h
  | .mpcTotu | .mpcTotc | .bdiTotu | .bdiTotc | .bdiRdstate | .fpcTotu | .fpcTotc | .bpcTotu | .bpcTotc
  | .cpackTotu | .cpackTotc | .sc2Totu | .sc2Totc | .engTotu | .engTotc | .cdqFull =>
    exact runCommand_total_keepsWf fun h _ => h
  | .bdiCompress _ => exact runCommand_bind_keepsWf fun h _ line _ => wf_bdiState h (bdiSelect_state_le s.cfg line)
  | .cpackCompress _ =>
    exact runCommand_bind_keepsWf fun h _ _ _ => wf_cpackDict h (cpackWords_length _ (cpackDict_length_of_wf h))
  | .sc2Compress _ => exact runCommand_bind_keepsWf fun h _ line _ => wf_sc2 h (sc2Line_ok line (sc2Ok_of_wf h))
  | .engCompress _ =>
    exact runCommand_bind_keepsWf fun h _ _ hr => wf_engine h (engineCompress_ok (engineOk_of_wf h) hr)
  | .dqPush _ _ _ => exact runCommand_total_keepsWf fun h hrun => wf_dq h (dqOk_push _ (dqOk_of_runs h hrun))
  | .dqPop =>
    exact runCommand_total_keepsWf fun h hrun => wf_resTxn (wf_dq h (dqOk_afterPop (dqOk_of_runs h hrun))) _
  | .cdqPush _ => exact runCommand_bind_keepsWf fun h hrun _ hq => wf_cdq h (cdqOk_push (cdqOk_of_runs h hrun) hq)
  | .cdqTop => exact execCdqTop_keepsWf s
  | .cdqPop => exact runCommand_total_keepsWf fun h hrun => wf_cdq h (cdqOk_afterPop (cdqOk_of_runs h hrun))
  | .lnkPush _ => exact runCommand_bind_keepsWf fun h hrun _ hl => wf_lnk h (linkPush_ok (lnkOk_of_runs h hrun).2 hl)
  | .mldnPush _ => exact runCommand_bind_keepsWf fun h hrun _ hl => wf_dn h (linkPush_ok (dnOk_of_runs h hrun).2 hl)
  | .mlupPush _ => exact runCommand_bind_keepsWf fun h hrun _ hl => wf_up h (linkPush_ok (upOk_of_runs h hrun).2 hl)
  | .lnkTop _ | .mldnTop _ | .mlupTop _ => exact runCommand_bind_keepsWf fun h _ _ _ => wf_resTxn h _
  | .lnkPop d => exact runCommand_bind_keepsWf fun h hrun _ _ => wf_lnk h (linkPop_ok d (lnkOk_of_runs h hrun).2)
  | .mldnPop d => exact runCommand_bind_keepsWf fun h hrun _ _ => wf_dn h (linkPop_ok d (dnOk_of_runs h hrun).2)
  | .mlupPop d => exact runCommand_bind_keepsWf fun h hrun _ _ => wf_up h (linkPop_ok d (upOk_of_runs h hrun).2)
  | .lnkStep _ =>
    exact runCommand_bind_keepsWf fun h hrun _ hstep => by
      obtain ⟨hparams, hlnk⟩ := lnkOk_of_runs h hrun
      obtain ⟨hl, he⟩ := linkStep_ok hparams hlnk (engineOk_of_wf h) hstep
      exact wf_engine (wf_lnk h hl) he
  | .mldnStep =>
    exact runCommand_bind_keepsWf fun h hrun _ hstep => by
      obtain ⟨hparams, hdn⟩ := dnOk_of_runs h hrun
      obtain ⟨hl, he⟩ := linkStep_ok hparams hdn (engineOk_of_wf h) hstep
      exact wf_remDn (wf_engine (wf_dn h hl) he) (bwRemainder_lt _ _ _)
  | .mlupStep =>
    exact runCommand_bind_keepsWf fun h hrun _ hstep => by
      obtain ⟨hparams, hup⟩ := upOk_of_runs h hrun
      obtain ⟨hl, he⟩ := linkStep_ok hparams hup (engineOk_of_wf h) hstep
      exact wf_remUp (wf_engine (wf_up h hl) he) (bwRemainder_lt _ _ _)

/-! ### The step -/

theorem illegalCommand_keepsWf (s : State) : KeepsWf s (illegalCommand s) := by
  intro h t ht
  rcases illegalCommand_cases s with ⟨_, e⟩ | ⟨_, e⟩ <;> rw [e] at ht <;> cases ht
  · exact refuse_wf h
  · exact raise_wf .badCmd h

theorem runPort_keepsWf (s : State) : KeepsWf s (runPort s) := by
  cases hdec : decode s.cmd with
  | ok i => rw [runPort_of_decode hdec]; exact exec_keepsWf i s
  | error r => rw [runPort_of_reject hdec]; exact illegalCommand_keepsWf s

/-- Of the line that the host writes at most 128 bytes reach the latch (R22; log 35). -/
theorem present_opLine_length_le {s : State} (c : Command) (h : s.opLine.length ≤ 128) :
    (s.present c).opLine.length ≤ 128 := by
  rw [State.present_opLine]
  cases c.line with
  | none => exact h
  | some bytes => exact lineLatch_length_le bytes

theorem present_wf {s : State} (c : Command) (h : s.wf) : (s.present c).wf := by
  obtain ⟨_, _, _, _, _, hline⟩ := (registersOk_iff s).1 h.1
  exact wf_opLine h (present_opLine_length_le c hline)

/-- Settles O59: the host's next event is none, a command or a pull of the reset pin, and each keeps the invariant. -/
theorem everyStepKeepsTheStateWellFormed : Obligations.EveryStepKeepsTheStateWellFormed := by
  intro s t h ht
  match hin : s.inbox with
  | [] => rw [step_of_idle hin] at ht; cases ht; exact h
  | .command c :: rest =>
    rw [step_of_command hin] at ht
    have hpresented : (State.present { s with inbox := rest } c).wf := present_wf c h
    exact runPort_keepsWf _ hpresented t ht
  | .resetPin :: rest =>
    rw [step_of_resetPin hin] at ht
    cases ht
    exact reinit_wf (s := { s with inbox := rest }) h

end Sys2Proof.Proofs
end

section
/-! PROOFS. A line's words (spec/20_memory.md R62) and the Frequent-Pattern encoder (spec/42_fpc.md R170 to R173): the
little-endian words as sums of bytes, the recursion over the words as a sum over them. Settles O21. -/

namespace Sys2Proof.Proofs

open Sys2Proof.Machine Sys2Proof.Claims

/-! ### Little-endian words -/

/-- The value of the first n bytes as a sum, the first byte least significant; past the line's end there is nothing to
add (R62). -/
theorem leValue_take (line : Line) (n : Nat) :
    leValue (line.take n) = ((List.range n).map fun k => (line.getD k 0).toNat * 256 ^ k).sum := by
  induction line generalizing n with
  | nil => simp [leValue]
  | cons b line ih =>
    cases n with
    | zero => rfl
    | succ n =>
      rw [List.take_succ_cons, leValue, ih, List.range_succ_eq_map, ← List.sum_map_mul_left]
      simp [Function.comp_def, Nat.pow_succ', Nat.mul_left_comm]

theorem memReadLE_eq_sum (line : Line) (addr n : Nat) :
    memReadLE line addr n = ((List.range n).map fun k => (line.getD (addr + k) 0).toNat * 256 ^ k).sum := by
  simp only [memReadLE, memRead, leValue_take, List.getD_eq_getElem?_getD, List.getElem?_drop]

/-! ### What FPC counts -/

/-- The bits that a word adds after the word before it: a code where a zero run starts, nothing inside it, a code and the
payload for a non-zero word (R170, R171, R173). -/
def fpcCodeBits (p : Params) (prev w : Nat) : Nat :=
  if w = 0 then if prev ≠ 0 then 3 + p.fpcZrunPayload else 0 else 3 + fpcPayload p w

/-- What the encoder remembers of the words so far is whether the last one was zero. -/
theorem fpcWordsBits_cons (p : Params) (prev w : Nat) (ws : List Nat) :
    fpcWordsBits p (prev == 0) (w :: ws) = fpcCodeBits p prev w + fpcWordsBits p (w == 0) ws := by
  by_cases hw : w = 0
  · simp [fpcWordsBits, fpcCodeBits, hw]
  · simp [fpcWordsBits, fpcCodeBits, hw, beq_eq_false_iff_ne.2 hw]

/-- The encoder's recursion, entered after the word `prev`, is the sum over the words, each with the one before it. -/
theorem fpcWordsBits_eq_sum (p : Params) (prev : Nat) (ws : List Nat) :
    fpcWordsBits p (prev == 0) ws =
      ((List.range ws.length).map fun i => fpcCodeBits p ((prev :: ws).getD i 0) (ws.getD i 0)).sum := by
  induction ws generalizing prev with
  | nil => rfl
  | cons w ws ih =>
    rw [fpcWordsBits_cons, ih, List.length_cons, List.range_succ_eq_map, List.map_cons, List.map_map, List.sum_cons]
    rfl

/-- Settles O21: the words as sums of bytes, and the encoder's recursion as a sum, entered as after a non-zero word. -/
theorem fpcCountsRunsAndWords : Obligations.FpcCountsRunsAndWords := by
  refine ⟨memReadLE_eq_sum, fun p => ⟨fun line => rfl, fun ws => ?counted⟩⟩
  case counted =>
    refine (fpcWordsBits_eq_sum p 1 ws).trans (congrArg List.sum (List.map_congr_left fun i _ => ?_))
    cases i with
    | zero => simp [fpcCodeBits]
    | succ i => simp [fpcCodeBits]

end Sys2Proof.Proofs
end

section
/-! PROOFS. A byte count that is not admitted (spec/20_memory.md R66; spec/60_exceptions.md R354) on each of the encoders.
Settles O11. -/

namespace Sys2Proof.Proofs

open Sys2Proof.Machine Sys2Proof.Claims

/-- The three ways in which a byte count is not admitted (R66). -/
abbrev unadmitted (p : Params) (a : Alg) (n : Nat) : Prop := n = 0 ∨ n % lineUnit a ≠ 0 ∨ p.maxLineBytes < n

theorem lineOperand_of_unadmitted {p : Params} {a : Alg} {n : Nat} (supplied : Line) (h : unadmitted p a n) :
    lineOperand p a supplied n = .error .badLen := by
  rcases lineOperand_cases p a supplied n with ⟨hpos, hunit, hmax, _⟩ | ⟨_, herror⟩
  · omega
  · exact herror

theorem engineCompress_of_unadmitted {p : Params} {a : Alg} {n : Nat} (e : Engine) (supplied : Line)
    (halg : p.alg = some a) (h : unadmitted p a n) : engineCompress p e supplied n = .error .badLen := by
  simp only [engineCompress, halg]
  exact bind_eq_error.2 (.inl (lineOperand_of_unadmitted supplied h))

/-- A verb whose rule first computes what can fault raises F_BADLEN when that does. -/
theorem runCommand_of_badLen {α : Type} {u : UnitId} {x : State → Except FaultCode α} {f : State → α → State}
    {s : State} (hrun : runs u s) (hx : x s = .error .badLen) :
    runCommand u (fun s => x s >>= fun a => .ok (f s a)) s = .next (afterFault 2 s) := by
  obtain ⟨hfault, hpresent⟩ := hrun
  exact runCommand_of_error (f := .badLen) hfault hpresent (bind_eq_error.2 (.inl hx))

theorem runCommand_of_unadmitted {u : UnitId} {a : Alg} {n : Nat} {f : State → Line → State} {s : State}
    (hrun : runs u s) (h : unadmitted s.cfg a n) :
    runCommand u (fun s => lineOperand s.cfg a s.opLine n >>= fun line => .ok (f s line)) s =
      .next (afterFault 2 s) :=
  runCommand_of_badLen hrun (lineOperand_of_unadmitted s.opLine h)

/-- Settles O11: each of the seven verbs asks for its line before it reads a byte or writes anything. -/
theorem unadmittedByteCountsRaiseBadLen : Obligations.UnadmittedByteCountsRaiseBadLen := by
  intro s n
  simp only [exec]
  refine ⟨?mpc, ?bdi, ?fpc, ?bpc, ?cpack, ?sc2, fun a hrun halg h => ?eng⟩
  case mpc | bdi | fpc | bpc | cpack | sc2 => exact fun hrun h => runCommand_of_unadmitted hrun h
  case eng => exact runCommand_of_badLen hrun (engineCompress_of_unadmitted s.engine s.opLine halg h)

end Sys2Proof.Proofs
end

section
/-! PROOFS. SC2.COMPRESS (spec/45_sc2.md R220 to R225): what a line gives in each phase, and the command. Settles O18. -/

namespace Sys2Proof.Proofs

open Sys2Proof.Machine Sys2Proof.Claims

theorem lineSymbols_eq_map_range (line : Line) :
    lineSymbols line = (List.range (line.length / 4)).map fun i => BitVec.ofNat 32 (memReadLE line (4 * i) 4) := by
  simp only [lineSymbols, lineWords, List.map_map]
  rfl

/-- The SC2 state after a sampled call: the symbols are counted, and the call that makes `calls` = T builds the code lengths
and drops the sample (R220, R221, R225). -/
theorem sc2Sampled_of_sampling {p : Params} {c : Sc2} (syms : List Word32) (h : c.phase = .sampling) :
    sc2Sampled p c syms =
      if c.calls + 1 = p.sc2WarmupCalls then
        { calls := c.calls + 1
          phase := .steady
          freq := []
          codelen := huffmanLengths p (prune p.sc2PruneOrder (countSyms c.freq syms)) }
      else
        { calls := c.calls + 1
          phase := .sampling
          freq := countSyms c.freq syms
          codelen := c.codelen } := by
  simp only [sc2Sampled, sc2Build, h]

/-- A sampled call escapes every word (R222). -/
theorem sc2Line_of_sampling {p : Params} {c : Sc2} (line : Line) (h : c.phase = .sampling) :
    sc2Line p c line = (33 * (line.length / 4), sc2Sampled p c (lineSymbols line)) := by
  simp [sc2Line, h, escapeWidth, lineSymbols_eq_map_range]

/-- A steady call costs each word's code length and keeps the state (R223, R224). -/
theorem sc2Line_of_steady {p : Params} {c : Sc2} (line : Line) (h : c.phase = .steady) :
    sc2Line p c line = (((lineSymbols line).map fun w => (c.codelen.lookup w).getD 33).sum, c) := by
  simp only [sc2Line, h]
  rfl

theorem sc2Compress_completes {s : State} {n : Nat} (hrun : runs .sc2 s) (hpos : n ≠ 0) (hunit : n % 4 = 0)
    (hmax : n ≤ s.cfg.maxLineBytes) :
    exec (.sc2Compress n) s = .next { s with
      res := resOfBits (sc2Line s.cfg s.sc2 (lineOf s.opLine n)).1
      sc2 := (sc2Line s.cfg s.sc2 (lineOf s.opLine n)).2
      sc2Tot := s.sc2Tot.add n (sc2Line s.cfg s.sc2 (lineOf s.opLine n)).1 } := by
  change execSc2Compress n s = _
  exact runCommand_of_line hrun hpos hunit hmax

/-- Settles O18: what a line gives in each phase, and the command writes it back with RES and the totals. -/
theorem sc2CompressCompletes : Obligations.Sc2CompressCompletes := by
  refine ⟨lineSymbols_eq_map_range, fun p c line => ⟨fun h => ?lineSampling, sc2Line_of_steady line⟩,
    fun s n hrun hpos hunit hmax => ⟨fun h => ?sampling, fun h => ⟨_, rfl, ?steady⟩⟩⟩
  case lineSampling => rw [sc2Line_of_sampling line h, sc2Sampled_of_sampling _ h]
  case sampling =>
    rw [sc2Compress_completes hrun hpos hunit hmax, sc2Line_of_sampling _ h, lineOf_length, sc2Sampled_of_sampling _ h]
    rfl
  case steady =>
    rw [sc2Compress_completes hrun hpos hunit hmax, sc2Line_of_steady _ h]
    rfl

end Sys2Proof.Proofs
end

section
/-! PROOFS. The Delay Queue under any sequence of uses (spec/20_memory.md R70; spec/46_delay_queues.md R245): each pointer
counts its own uses modulo cap. Settles O40. -/

namespace Sys2Proof.Proofs

open Sys2Proof.Machine Sys2Proof.Claims

theorem dqOk_run {p : DqParams} {q : Dq} (uses : List (Option Slot)) (h : dqOk p q) : dqOk p (dqRun p uses q) := by
  induction uses generalizing q with
  | nil => exact h
  | cons use uses ih =>
    cases use with
    | some f => exact ih (dqOk_push f h)
    | none => exact ih (dqOk_afterPop h)

theorem advance_modEq (cap x : Nat) : advance cap x ≡ x + 1 [MOD cap] := Nat.mod_modEq (x + 1) cap

/-- `wr` counts the pushes (R241). -/
theorem dqRun_wr_modEq (p : DqParams) (uses : List (Option Slot)) (q : Dq) :
    (dqRun p uses q).wr ≡ q.wr + (uses.filter Option.isSome).length [MOD p.cap] := by
  induction uses generalizing q with
  | nil => rfl
  | cons use uses ih =>
    cases use with
    | some f =>
      have hpush := (ih (dqPush p q f)).trans ((advance_modEq p.cap q.wr).add_right _)
      simpa [dqRun, Nat.add_assoc, Nat.add_comm 1] using hpush
    | none => simpa [dqRun] using ih (dqAfterPop p q)

/-- `rd` counts the pops (R242). -/
theorem dqRun_rd_modEq (p : DqParams) (uses : List (Option Slot)) (q : Dq) :
    (dqRun p uses q).rd ≡ q.rd + (uses.filter Option.isNone).length [MOD p.cap] := by
  induction uses generalizing q with
  | nil => rfl
  | cons use uses ih =>
    cases use with
    | some f => simpa [dqRun] using ih (dqPush p q f)
    | none =>
      have hpop := (ih (dqAfterPop p q)).trans ((advance_modEq p.cap q.rd).add_right _)
      simpa [dqRun, Nat.add_assoc, Nat.add_comm 1] using hpop

/-- The offset takes `rd` to `wr` (R243). -/
theorem rd_add_dqOffset_modEq {p : DqParams} {q : Dq} (h : dqOk p q) : q.rd + dqOffset p q ≡ q.wr [MOD p.cap] := by
  obtain ⟨_, hrd, _⟩ := h
  calc q.rd + dqOffset p q
      ≡ q.rd + (q.wr + p.cap - q.rd) [MOD p.cap] := (Nat.mod_modEq _ _).add_left _
    _ = q.wr + p.cap := by omega
    _ ≡ q.wr [MOD p.cap] := Nat.add_modEq_right

/-- When `rd` has made some pops' steps and `wr` some pushes', the offset has shrunk and grown by as many: the old `rd`
cancels. -/
theorem dqOffset_of_moved {p : DqParams} {q q' : Dq} {pops pushes : Nat} (h : dqOk p q) (h' : dqOk p q')
    (hrd : q'.rd ≡ q.rd + pops [MOD p.cap]) (hwr : q'.wr ≡ q.wr + pushes [MOD p.cap]) :
    dqOffset p q' + pops ≡ dqOffset p q + pushes [MOD p.cap] := by
  refine Nat.ModEq.add_left_cancel' q.rd ?_
  calc q.rd + (dqOffset p q' + pops)
      = q.rd + pops + dqOffset p q' := by omega
    _ ≡ q'.rd + dqOffset p q' [MOD p.cap] := hrd.symm.add_right _
    _ ≡ q'.wr [MOD p.cap] := rd_add_dqOffset_modEq h'
    _ ≡ q.wr + pushes [MOD p.cap] := hwr
    _ ≡ q.rd + dqOffset p q + pushes [MOD p.cap] := (rd_add_dqOffset_modEq h).symm.add_right _
    _ = q.rd + (dqOffset p q + pushes) := Nat.add_assoc _ _ _

/-- Settles O40: each pointer counts its uses, and the offset is their distance. -/
theorem dqOffsetCountsPushesAndPops : Obligations.DqOffsetCountsPushesAndPops := by
  intro p q uses h
  have hok := dqOk_run uses h
  exact ⟨hok, dqOffset_of_moved h hok (dqRun_rd_modEq p uses q) (dqRun_wr_modEq p uses q)⟩

end Sys2Proof.Proofs
end

section
/-! PROOFS. The decoder against the encoder and against the rows of spec/30_encoding.md R83 (R81, R86). Settles O1, O2, O3. -/

namespace Sys2Proof.Proofs

open Sys2Proof.Machine Sys2Proof.Claims

/-! ### Reading a command back from its word -/

/-- A flag of DQ.PUSH is a bit of the word's `arg` (R83). -/
theorem cmdFlag_cmdWord {unit verb idx arg k : Nat} (hu : unit < 16) (hv : verb < 16) (hi : idx < 256)
    (ha : arg < 65536) (hk : k < 16) : cmdFlag (cmdWord unit verb idx arg) k = arg.testBit k := by
  have hhigh : unit * 2 ^ 28 + verb * 2 ^ 24 + idx * 2 ^ 16 + arg =
      2 ^ 16 * (unit * 2 ^ 12 + verb * 2 ^ 8 + idx) + arg := by omega
  have hbit : (cmdWord unit verb idx arg).toNat.testBit k = arg.testBit k := by
    rw [cmdWord_toNat hu hv hi ha, hhigh, Nat.testBit_two_pow_mul_add _ ha, if_pos hk]
  rw [← hbit, Nat.testBit_eq_decide_div_mod_eq]
  rfl

/-- The three flags in the `arg` that the encoder writes for DQ.PUSH (R83). -/
theorem dqPushArg_testBit :
    ∀ head tail hasTxn : Bool, (dqPushArg head tail hasTxn).testBit 0 = tail ∧
      (dqPushArg head tail hasTxn).testBit 1 = head ∧ (dqPushArg head tail hasTxn).testBit 2 = hasTxn := by
  decide

theorem decode_dqPush (head tail hasTxn : Bool) :
    decode (encode (.dqPush head tail hasTxn)) = .ok (.dqPush head tail hasTxn) := by
  obtain ⟨htail, hhead, htxn⟩ := dqPushArg_testBit head tail hasTxn
  have harg := dqPushArg_lt head tail hasTxn
  simp (disch := omega) only [encode, decode, cmdUnit_cmdWord, cmdVerb_cmdWord, cmdFlag_cmdWord, htail, hhead, htxn]

/-- A command has no operand, or one in `arg`, or one in `idx`, or the flags of DQ.PUSH; the word's fields return it. -/
theorem decode_encode {i : Instr} (h : i.wf = true) : decode (encode i) = .ok i := by
  match i with
  | .sysReset | .sysRdfault | .mpcTotu | .mpcTotc | .bdiTotu | .bdiTotc | .bdiRdstate | .fpcTotu | .fpcTotc
  | .bpcTotu | .bpcTotc | .cpackTotu | .cpackTotc | .sc2Totu | .sc2Totc | .engTotu | .engTotc
  | .dqPop | .cdqTop | .cdqPop | .cdqFull | .mldnStep | .mlupStep => rfl
  | .mpcCompress n | .bdiCompress n | .fpcCompress n | .bpcCompress n | .cpackCompress n | .sc2Compress n
  | .engCompress n | .cdqPush n | .lnkStep n =>
    have harg : n < 65536 := of_decide_eq_true h
    simp (disch := omega) only [encode, decode, cmdUnit_cmdWord, cmdVerb_cmdWord, cmdArg_cmdWord]
  | .lnkPush k | .lnkFull k | .lnkEmpty k | .lnkTop k | .lnkPop k
  | .mldnPush k | .mldnFull k | .mldnEmpty k | .mldnTop k | .mldnPop k
  | .mlupPush k | .mlupFull k | .mlupEmpty k | .mlupTop k | .mlupPop k =>
    have hidx : k < 256 := of_decide_eq_true h
    simp (disch := omega) only [encode, decode, cmdUnit_cmdWord, cmdVerb_cmdWord, cmdIdx_cmdWord]
  | .dqPush head tail hasTxn => exact decode_dqPush head tail hasTxn

/-- Settles O1, by the shape of the operands. -/
theorem decodeReadsBackEveryCommand : Obligations.DecodeReadsBackEveryCommand := fun _ h => decode_encode h

/-! ### The row of a word -/

theorem cmdUnit_lt (w : Word32) : cmdUnit w < 16 := Nat.mod_lt _ (by decide)

theorem cmdVerb_lt (w : Word32) : cmdVerb w < 16 := Nat.mod_lt _ (by decide)

theorem argFits_cmdArg (w : Word32) : argFits (cmdArg w) = true := decide_eq_true (Nat.mod_lt _ (by decide))

theorem idxFits_cmdIdx (w : Word32) : idxFits (cmdIdx w) = true := decide_eq_true (Nat.mod_lt _ (by decide))

/-- Bits 31 to 24 of a word are its unit and its verb (R81). -/
theorem topByte_eq (w : Word32) : w.toNat / 2 ^ 24 = 16 * cmdUnit w + cmdVerb w := by
  have hw := w.isLt
  simp only [cmdUnit, cmdVerb, wordField]
  omega

/-- How many verbs the rows of R83 give a unit; they are numbered from 0. -/
def verbCount : Nat → Nat
  | 0 => 2
  | 1 | 3 | 4 | 5 | 6 | 7 => 3
  | 2 | 9 => 4
  | 8 => 2
  | 10 | 11 | 12 => 6
  | _ => 0

theorem mem_tableOpcodes_iff : ∀ unit < 16, ∀ verb < 16, 16 * unit + verb ∈ tableOpcodes ↔ verb < verbCount unit := by
  decide

theorem topByte_mem_tableOpcodes_iff (w : Word32) :
    w.toNat / 2 ^ 24 ∈ tableOpcodes ↔ cmdVerb w < verbCount (cmdUnit w) := by
  rw [topByte_eq]
  exact mem_tableOpcodes_iff _ (cmdUnit_lt w) _ (cmdVerb_lt w)

/-- What the decoder may answer to a word of a unit and a verb: a well-formed command of that row, or, when the unit has no
such verb, a refusal. -/
def AnswersRow (unit verb : Nat) : Except DecodeReject Instr → Prop
  | .ok i => i.wf = true ∧ Laws.rowByte i = 16 * unit + verb ∧ verb < verbCount unit
  | .error _ => verbCount unit ≤ verb

theorem decode_answersRow (w : Word32) : AnswersRow (cmdUnit w) (cmdVerb w) (decode w) := by
  fun_cases decode w
  -- An operand is a field of the word, so it fits that field; the number of the unit gives the verbs that it has.
  all_goals simp only [AnswersRow, Instr.wf, Laws.rowByte, verbCount, argFits_cmdArg, idxFits_cmdIdx, *]
  -- The verb is one of them where the decoder answers a command, and none of them where it refuses.
  all_goals grind

theorem decode_ok {w : Word32} {i : Instr} (h : decode w = .ok i) :
    i.wf = true ∧ Laws.rowByte i = w.toNat / 2 ^ 24 ∧ w.toNat / 2 ^ 24 ∈ tableOpcodes := by
  have hrow : AnswersRow (cmdUnit w) (cmdVerb w) (.ok i) := h ▸ decode_answersRow w
  rw [topByte_mem_tableOpcodes_iff, topByte_eq]
  exact hrow

theorem decode_error {w : Word32} {r : DecodeReject} (h : decode w = .error r) : w.toNat / 2 ^ 24 ∉ tableOpcodes := by
  have hreject : AnswersRow (cmdUnit w) (cmdVerb w) (.error r) := h ▸ decode_answersRow w
  rw [topByte_mem_tableOpcodes_iff]
  exact Nat.not_lt.mpr hreject

/-- A word in no row of R83 is refused (R86). -/
theorem decode_of_notMem {w : Word32} (h : w.toNat / 2 ^ 24 ∉ tableOpcodes) : ∃ r, decode w = .error r := by
  cases hdec : decode w with
  | ok i =>
    obtain ⟨_, _, hmem⟩ := decode_ok hdec
    exact absurd hmem h
  | error r => exact ⟨r, rfl⟩

theorem decode_of_mem {w : Word32} (h : w.toNat / 2 ^ 24 ∈ tableOpcodes) : ∃ i, decode w = .ok i := by
  cases hdec : decode w with
  | ok i => exact ⟨i, rfl⟩
  | error r => exact absurd h (decode_error hdec)

/-- The encoder writes a command's row into bits 31 to 24: the decoder finds that row there. -/
theorem encode_topByte {i : Instr} (h : i.wf = true) : (encode i).toNat / 2 ^ 24 = Laws.rowByte i := by
  obtain ⟨_, hrow, _⟩ := decode_ok (decode_encode h)
  exact hrow.symm

/-- Settles O2: the decoder's answer is of the row that the top byte names, and so is the word that encodes it. -/
theorem decodingIsByTheTopByteAlone : Obligations.DecodingIsByTheTopByteAlone := by
  refine fun w => ⟨fun hmem => ?row, decode_of_notMem⟩
  obtain ⟨i, hdec⟩ := decode_of_mem hmem
  obtain ⟨hwf, hrow, _⟩ := decode_ok hdec
  exact ⟨i, hdec, (encode_topByte hwf).trans hrow⟩

/-- Settles O3: each of the thirteen words is decoded. -/
theorem wordsOfTheSpecDecode : Obligations.WordsOfTheSpecDecode := by
  unfold Obligations.WordsOfTheSpecDecode
  decide

end Sys2Proof.Proofs
end

section
/-! PROOFS. Commands that the block answers with F_BADCMD (spec/30_encoding.md R84, R87) and the reading of an encoder's
totals (R85). Settles O10, O20. -/

namespace Sys2Proof.Proofs

open Sys2Proof.Machine Sys2Proof.Claims

/-! ### Words that name no command -/

theorem illegalCommand_of_noFault {s : State} (h : s.fault = 0) : illegalCommand s = .next (afterFault 1 s) := by
  rcases illegalCommand_cases s with ⟨hfault, _⟩ | ⟨_, heq⟩
  · exact absurd h hfault
  · exact heq

theorem step_of_wordInNoRow {s : State} {c : Command} {rest : List HostEvent} (hfault : s.fault = 0)
    (hin : s.inbox = .command c :: rest) (hword : c.word.toNat / 2 ^ 24 ∉ tableOpcodes) :
    step s = .next (afterFault 1 (State.present { s with inbox := rest } c)) := by
  obtain ⟨r, hreject⟩ := decode_of_notMem hword
  rw [step_of_command hin]
  exact (runPort_of_reject hreject).trans (illegalCommand_of_noFault hfault)

/-! ### Absent units -/

/-- Every command of a unit other than the system unit runs in the discipline of R350, R87 and R348. -/
theorem exec_eq_runCommand {i : Instr} (s : State) (hi : unitOf i ≠ .sys) :
    ∃ body, exec i s = runCommand (unitOf i) body s := by
  unfold exec
  match i with
  | .sysReset | .sysRdfault => exact absurd rfl hi
  | .mpcCompress _ | .mpcTotu | .mpcTotc | .bdiCompress _ | .bdiTotu | .bdiTotc | .bdiRdstate
  | .fpcCompress _ | .fpcTotu | .fpcTotc | .bpcCompress _ | .bpcTotu | .bpcTotc
  | .cpackCompress _ | .cpackTotu | .cpackTotc | .sc2Compress _ | .sc2Totu | .sc2Totc
  | .engCompress _ | .engTotu | .engTotc | .dqPush _ _ _ | .dqPop
  | .cdqPush _ | .cdqTop | .cdqPop | .cdqFull
  | .lnkPush _ | .lnkFull _ | .lnkStep _ | .lnkEmpty _ | .lnkTop _ | .lnkPop _
  | .mldnPush _ | .mldnFull _ | .mldnStep | .mldnEmpty _ | .mldnTop _ | .mldnPop _
  | .mlupPush _ | .mlupFull _ | .mlupStep | .mlupEmpty _ | .mlupTop _ | .mlupPop _ => exact ⟨_, rfl⟩

/-- The system unit is never absent (R82), so the discipline of the other units' commands answers. -/
theorem exec_of_absent {i : Instr} {s : State} (hfault : s.fault = 0) (h : s.cfg.has (unitOf i) = false) :
    exec i s = .next (afterFault 1 s) := by
  have hi : unitOf i ≠ .sys := fun hsys => by rw [hsys] at h; cases h
  obtain ⟨body, hexec⟩ := exec_eq_runCommand s hi
  rw [hexec]
  exact runCommand_of_absent hfault h

/-! ### Indices out of range -/

theorem sourceIndex_of_le {lp : LinkParams} {k : Nat} (h : lp.sources ≤ k) : sourceIndex lp k = .error .badCmd :=
  if_neg (Nat.not_lt.mpr h)

theorem destIndex_of_le {lp : LinkParams} {k : Nat} (h : lp.dests ≤ k) : destIndex lp k = .error .badCmd :=
  if_neg (Nat.not_lt.mpr h)

theorem linkPush_of_le {lp : LinkParams} {k : Nat} (l : Link) (t : Txn) (h : lp.sources ≤ k) :
    linkPush lp l k t = .error .badCmd :=
  if_neg (Nat.not_lt.mpr h)

/-- A verb that first tests its index answers a bad one with F_BADCMD, which an absent unit raises as well. -/
theorem runCommand_of_badCmd {α : Type} {u : UnitId} {x : State → Except FaultCode α} {f : State → α → State}
    {s : State} (hfault : s.fault = 0) (hx : x s = .error .badCmd) :
    runCommand u (fun s => x s >>= fun a => .ok (f s a)) s = .next (afterFault 1 s) := by
  cases hu : s.cfg.has u with
  | false => exact runCommand_of_absent hfault hu
  | true => exact runCommand_of_error (f := .badCmd) hfault hu (bind_eq_error.2 (.inl hx))

/-- Settles O10: the word is refused by the decoder, the absent unit before the verb's rule, the index by the rule's first
test. -/
theorem illegalCommandsRaiseBadCmd : Obligations.IllegalCommandsRaiseBadCmd := by
  refine fun s hfault => ⟨fun c rest hin hword => step_of_wordInNoRow hfault hin hword,
    fun i habsent => exec_of_absent hfault habsent, fun k => ?index⟩
  simp only [exec]
  refine ⟨?lnkSrc, ?lnkDst, ?dnSrc, ?dnDst, ?upSrc, ?upDst⟩
  case lnkSrc | dnSrc | upSrc =>
    exact fun h => ⟨runCommand_of_badCmd hfault (linkPush_of_le _ _ h),
      runCommand_of_badCmd hfault (sourceIndex_of_le h)⟩
  case lnkDst | dnDst | upDst =>
    exact fun h => ⟨runCommand_of_badCmd hfault (destIndex_of_le h), runCommand_of_badCmd hfault (destIndex_of_le h),
      runCommand_of_badCmd hfault (destIndex_of_le h)⟩

/-! ### Totals -/

/-- A verb of a unit that runs, whose rule has no fault of its own. -/
theorem runCommand_of_total {u : UnitId} {f : State → State} {s : State} (hrun : runs u s) :
    runCommand u (fun s => .ok (f s)) s = .next (f s) := by
  obtain ⟨hfault, hpresent⟩ := hrun
  exact runCommand_of_ok hfault hpresent rfl

/-- Settles O20: neither verb of an encoder has a fault of its own, and each writes RES64 alone. -/
theorem totalsAreReadWithoutEffect : Obligations.TotalsAreReadWithoutEffect := by
  intro s
  simp only [exec]
  refine ⟨?mpc, ?bdi, ?fpc, ?bpc, ?cpack, ?sc2, ?eng⟩
  case mpc | bdi | fpc | bpc | cpack | sc2 | eng =>
    exact fun hrun => ⟨runCommand_of_total hrun, runCommand_of_total hrun⟩

end Sys2Proof.Proofs
end

section
/-! PROOFS. The Multi-Pattern Compressor (spec/40_mpc.md R111 to R127): the choice among the candidates and the cost of
a sub-block, the way from its bytes to the bits of a matrix, the sum over a line. Settles O29, O30, O31. -/

namespace Sys2Proof.Proofs

open Sys2Proof.Machine Sys2Proof.Claims

/-! ### The winner -/

theorem exists_mpcWinner {cs : List (List (List Bool) × Nat)} (h : cs ≠ []) : ∃ c, mpcWinner cs = some c := by
  cases cs with
  | nil => exact absurd rfl h
  | cons x cs =>
    rw [mpcWinner]
    repeat' split
    all_goals exact ⟨_, rfl⟩

theorem eq_nil_of_mpcWinner {cs : List (List (List Bool) × Nat)} (h : mpcWinner cs = none) : cs = [] := by
  by_contra hne
  obtain ⟨c, hc⟩ := exists_mpcWinner hne
  exact absurd (h.symm.trans hc) nofun

/-- The winner splits the candidates: fewer leading zero rows before it, at most as many after it (R112, R124). -/
theorem mpcWinner_splits {cs : List (List (List Bool) × Nat)} {c : List (List Bool) × Nat}
    (h : mpcWinner cs = some c) :
    ∃ before after, cs = before ++ c :: after ∧
      (∀ d ∈ before, leadingZeroRows d.1 < leadingZeroRows c.1) ∧
      ∀ d ∈ after, leadingZeroRows d.1 ≤ leadingZeroRows c.1 := by
  induction cs generalizing c with
  | nil => cases h
  | cons x cs ih =>
    rw [mpcWinner] at h
    split at h
    case h_1 hnone =>
      cases h
      exact ⟨[], [], by rw [eq_nil_of_mpcWinner hnone]; rfl, nofun, nofun⟩
    case h_2 d hd =>
      obtain ⟨before, after, rfl, hbefore, hafter⟩ := ih hd
      split at h
      case isTrue hlt =>
        cases h
        exact ⟨x :: before, after, rfl, List.forall_mem_cons.2 ⟨hlt, hbefore⟩, hafter⟩
      case isFalse hle =>
        cases h
        have hd' := not_lt.1 hle
        exact ⟨[], _, rfl, nofun, List.forall_mem_append.2 ⟨fun e he => (hbefore e he).le.trans hd',
          List.forall_mem_cons.2 ⟨hd', fun e he => (hafter e he).trans hd'⟩⟩⟩

/-! ### The candidates -/

/-- What a module enters among the candidates (R112). -/
def moduleCandidate (p : Params) (sb : Line) (m : MpcModule) : Option (List (List Bool) × Nat) :=
  match m.kind with
  | .predComp g => some (mpcMatrix p g sb, widthOf p.mpc m.encW)
  | _ => none

theorem mpcCandidates_eq_filterMap (p : Params) (sb : Line) :
    mpcCandidates p sb = p.mpc.modules.filterMap (moduleCandidate p sb) := rfl

theorem moduleCandidate_eq_some_iff {p : Params} {sb : Line} {m : MpcModule} {c : List (List Bool) × Nat} :
    moduleCandidate p sb m = some c ↔
      ∃ g, m.kind = .predComp g ∧ c = (mpcMatrix p g sb, widthOf p.mpc m.encW) := by
  unfold moduleCandidate
  cases m.kind <;> simp [eq_comm]

/-- What the module of an index enters among the candidates. -/
def candidateAt (p : Params) (sb : Line) (i : Nat) : Option (List (List Bool) × Nat) :=
  p.mpc.modules[i]?.bind (moduleCandidate p sb)

theorem candidateAt_eq_some_iff {p : Params} {sb : Line} {i : Nat} {c : List (List Bool) × Nat} :
    candidateAt p sb i = some c ↔
      ∃ m g, p.mpc.modules[i]? = some m ∧ m.kind = .predComp g ∧
        c = (mpcMatrix p g sb, widthOf p.mpc m.encW) := by
  simp only [candidateAt, Option.bind_eq_some_iff, moduleCandidate_eq_some_iff, exists_and_left]

/-- The indices of the general modules, in their order. -/
def candidateIndices (p : Params) (sb : Line) : List Nat :=
  (List.range p.mpc.modules.length).filter fun i => (candidateAt p sb i).isSome

theorem candidateIndices_rise (p : Params) (sb : Line) : (candidateIndices p sb).Pairwise (· < ·) :=
  List.pairwise_lt_range.filter _

theorem mem_candidateIndices_iff {p : Params} {sb : Line} {i : Nat} :
    i ∈ candidateIndices p sb ↔ ∃ c, candidateAt p sb i = some c := by
  simp only [candidateIndices, List.mem_filter, List.mem_range, Option.isSome_iff_exists, and_iff_right_iff_imp]
  rintro ⟨c, hc⟩
  obtain ⟨m, _, hm, _⟩ := candidateAt_eq_some_iff.1 hc
  exact (List.getElem?_eq_some_iff.1 hm).1

/-- The candidates stand in the order of their modules' indices. -/
theorem map_candidateAt_candidateIndices (p : Params) (sb : Line) :
    (candidateIndices p sb).map (candidateAt p sb) = (mpcCandidates p sb).map some := by
  have hall : (List.range p.mpc.modules.length).map (candidateAt p sb) =
      p.mpc.modules.map (moduleCandidate p sb) :=
    List.ext_getElem (by simp) fun i h _ => by simp [candidateAt] at h ⊢; simp [h]
  rw [mpcCandidates_eq_filterMap, List.map_filterMap_some_eq_filter_map_isSome, ← hall, List.filter_map]
  rfl

theorem candidateIndices_length (p : Params) (sb : Line) :
    (candidateIndices p sb).length = (mpcCandidates p sb).length := by
  simpa using congrArg List.length (map_candidateAt_candidateIndices p sb)

theorem mpcCandidates_getElem? {p : Params} {sb : Line} {i j : Nat} {c : List (List Bool) × Nat}
    (hj : (candidateIndices p sb)[j]? = some i) (hc : candidateAt p sb i = some c) :
    (mpcCandidates p sb)[j]? = some c := by
  have h : ((mpcCandidates p sb).map some)[j]? = some (some c) := by
    rw [← map_candidateAt_candidateIndices, List.getElem?_map, hj, Option.map_some, hc]
  simpa using h

theorem mem_mpcCandidates_iff {p : Params} {sb : Line} {c : List (List Bool) × Nat} :
    c ∈ mpcCandidates p sb ↔
      ∃ m ∈ p.mpc.modules, ∃ g, m.kind = .predComp g ∧ c = (mpcMatrix p g sb, widthOf p.mpc m.encW) := by
  simp only [mpcCandidates_eq_filterMap, List.mem_filterMap, moduleCandidate_eq_some_iff]

/-- The winner is the candidate of one index; a module of a lower index has fewer leading zero rows, any other at most as
many (R112, R113). -/
theorem mpcWinner_index {p : Params} {sb : Line} {c : List (List Bool) × Nat}
    (h : mpcWinner (mpcCandidates p sb) = some c) :
    ∃ i, candidateAt p sb i = some c ∧ ∀ i' d, candidateAt p sb i' = some d →
      leadingZeroRows d.1 ≤ leadingZeroRows c.1 ∧ (i' < i → leadingZeroRows d.1 < leadingZeroRows c.1) := by
  obtain ⟨before, after, hcs, hbefore, hafter⟩ := mpcWinner_splits h
  have hidx := map_candidateAt_candidateIndices p sb
  have hrise := candidateIndices_rise p sb
  rw [hcs, List.map_append, List.map_cons, List.map_eq_append_iff] at hidx
  obtain ⟨low, high, hsplit, hlow, hhigh⟩ := hidx
  obtain ⟨i, high, rfl, hi, hhigh⟩ := List.map_eq_cons_iff.1 hhigh
  refine ⟨i, hi, fun i' d hd => ?_⟩
  have hmem : i' ∈ candidateIndices p sb := mem_candidateIndices_iff.2 ⟨d, hd⟩
  rw [hsplit, List.mem_append, List.mem_cons] at hmem
  rcases hmem with hmem | rfl | hmem
  case inl =>
    have hd' : some d ∈ before.map some := hlow ▸ hd ▸ List.mem_map_of_mem hmem
    have hlt := hbefore d (by simpa using hd')
    exact ⟨hlt.le, fun _ => hlt⟩
  case inr.inl =>
    cases hi.symm.trans hd
    exact ⟨le_rfl, fun h => absurd h (lt_irrefl _)⟩
  case inr.inr =>
    have hd' : some d ∈ after.map some := hhigh ▸ hd ▸ List.mem_map_of_mem hmem
    have habove : i < i' := by
      rw [hsplit, List.pairwise_append, List.pairwise_cons] at hrise
      exact hrise.2.1.1 i' hmem
    exact ⟨hafter d (by simpa using hd'), fun h => absurd h habove.not_gt⟩

/-! ### Leading zero rows -/

theorem leadingZeroRows_cons (row : List Bool) (rows : List (List Bool)) :
    leadingZeroRows (row :: rows) = if allZeroBits row = true then leadingZeroRows rows + 1 else 0 := by
  rw [leadingZeroRows, List.takeWhile_cons]
  split
  · rfl
  · rfl

theorem all_take_leadingZeroRows (rows : List (List Bool)) :
    (rows.take (leadingZeroRows rows)).all allZeroBits = true := by
  induction rows with
  | nil => rfl
  | cons row rows ih =>
    rw [leadingZeroRows_cons]
    split
    case isTrue hrow => rw [List.take_succ_cons, List.all_cons, hrow, ih, Bool.and_self]
    case isFalse => rfl

/-- The count stops at a row with a set bit (R124). -/
theorem allZeroBits_of_getElem?_leadingZeroRows {rows : List (List Bool)} {r : List Bool}
    (h : rows[leadingZeroRows rows]? = some r) : allZeroBits r = false := by
  induction rows with
  | nil => cases h
  | cons row rows ih =>
    rw [leadingZeroRows_cons] at h
    split at h
    case isTrue => exact ih h
    case isFalse hrow =>
      cases h
      exact Bool.eq_false_of_not_eq_true hrow

/-! ### The cost of a sub-block -/

theorem fastPathWidth_of_find {c : MpcCfg} {k : ModuleKind} {m : MpcModule}
    (h : c.modules.find? (fun m => m.kind == k) = some m) : fastPathWidth c k = some (widthOf c m.encW) := by
  rw [fastPathWidth, h, Option.map_some]

theorem fastPathWidth_of_absent {c : MpcCfg} {k : ModuleKind} (h : ∀ m ∈ c.modules, m.kind ≠ k) :
    fastPathWidth c k = none := by
  simpa [fastPathWidth] using h

theorem allZeroBytes_iff {bs : Line} : allZeroBytes bs = true ↔ ∀ b ∈ bs, b = 0 := by
  simp [allZeroBytes]

theorem memRead_getElem? (l : Line) (addr n k : Nat) :
    (memRead l addr n)[k]? = if k < n then l[addr + k]? else none := by
  rw [memRead, List.getElem?_take, List.getElem?_drop]

/-- Two reads that stay inside the line agree if they agree byte for byte. -/
theorem memRead_eq_iff {l : Line} {a b n : Nat} (ha : a + n ≤ l.length) (hb : b + n ≤ l.length) :
    memRead l a n = memRead l b n ↔ ∀ k < n, l.getD (a + k) 0 = l.getD (b + k) 0 := by
  rw [List.ext_getElem?_iff]
  refine forall_congr' fun k => ?_
  rw [memRead_getElem?, memRead_getElem?]
  by_cases hk : k < n
  · have hak : a + k < l.length := by omega
    have hbk : b + k < l.length := by omega
    simp [hk, hak, hbk]
  · simp [hk]

theorem allWordsSame_iff {sb : Line} (hlen : sb.length = 32) :
    allWordsSame sb = true ↔ ∀ j < 8, ∀ k < 4, sb.getD (4 * j + k) 0 = sb.getD k 0 := by
  simp only [allWordsSame, List.all_eq_true, List.mem_range, beq_iff_eq]
  refine forall₂_congr fun j hj => ?_
  rw [memRead_eq_iff (by omega) (by omega)]
  simp only [Nat.zero_add]

theorem subBlockCost_of_allZero {p : Params} {sb : Line} {w : Nat} (hw : fastPathWidth p.mpc .allZero = some w)
    (hz : allZeroBytes sb = true) : subBlockCost p sb = w := by
  simp only [subBlockCost, hw, hz]

/-- The AllZero module is not configured or does not take the sub-block. -/
abbrev passesAllZero (p : Params) (sb : Line) : Prop :=
  fastPathWidth p.mpc .allZero = none ∨ allZeroBytes sb = false

theorem passesAllZero_of_absent_or_nonzero {p : Params} {sb : Line}
    (h : (∀ m ∈ p.mpc.modules, m.kind ≠ .allZero) ∨ ∃ b ∈ sb, b ≠ 0) : passesAllZero p sb := by
  refine h.imp fastPathWidth_of_absent fun ⟨b, hb, hne⟩ => ?_
  exact Bool.eq_false_of_not_eq_true fun hz => hne (allZeroBytes_iff.1 hz b hb)

/-- The AllWordSame module is not configured or does not take the sub-block. -/
abbrev passesAllWordSame (p : Params) (sb : Line) : Prop :=
  fastPathWidth p.mpc .allWordSame = none ∨ allWordsSame sb = false

theorem passesAllWordSame_of_absent_or_differs {p : Params} {sb : Line} (hlen : sb.length = 32)
    (h : (∀ m ∈ p.mpc.modules, m.kind ≠ .allWordSame) ∨
      ∃ j < 8, ∃ k < 4, sb.getD (4 * j + k) 0 ≠ sb.getD k 0) : passesAllWordSame p sb := by
  refine h.imp fastPathWidth_of_absent fun ⟨j, hj, k, hk, hne⟩ => ?_
  exact Bool.eq_false_of_not_eq_true fun hs => hne ((allWordsSame_iff hlen).1 hs j hj k hk)

theorem subBlockCost_of_allWordSame {p : Params} {sb : Line} {w : Nat} (hz : passesAllZero p sb)
    (hw : fastPathWidth p.mpc .allWordSame = some w) (hs : allWordsSame sb = true) :
    subBlockCost p sb = 32 + w := by
  rcases hz with hz | hz <;> simp [subBlockCost, hz, hw, hs]

theorem subBlockCost_of_general {p : Params} {sb : Line} (hz : passesAllZero p sb) (hs : passesAllWordSame p sb) :
    subBlockCost p sb = generalCost p sb := by
  rcases hz with hz | hz <;> rcases hs with hs | hs <;> simp [subBlockCost, hz, hs]

theorem generalCost_of_winner {p : Params} {sb : Line} {rows : List (List Bool)} {w : Nat}
    (h : mpcWinner (mpcCandidates p sb) = some (rows, w)) :
    generalCost p sb =
      if 256 ≤ rowBits rows + w then 256 + widthOf p.mpc p.mpc.encWUnc else rowBits rows + w := by
  simp only [generalCost, h]

/-- Settles O29: the winner of a list, the candidates as those of the modules' indices, and the three ways to a
sub-block's cost. -/
theorem mpcWinnerHasMostLeadingZeroRows : Obligations.MpcWinnerHasMostLeadingZeroRows := by
  refine ⟨fun cs => exists_mpcWinner, fun cs c => mpcWinner_splits,
    fun rows => ⟨all_take_leadingZeroRows rows, fun r => allZeroBits_of_getElem?_leadingZeroRows⟩,
    fun p sb c => mem_mpcCandidates_iff, fun p sb => ?indices, fun p sb c h => ?winner, fun p sb hlen => ?cost⟩
  case indices =>
    refine ⟨candidateIndices p sb, candidateIndices_rise p sb, candidateIndices_length p sb, fun i => ?_,
      fun j i m g hj hm hg => mpcCandidates_getElem? hj (candidateAt_eq_some_iff.2 ⟨m, g, hm, hg, rfl⟩)⟩
    simp only [mem_candidateIndices_iff, candidateAt_eq_some_iff]
    exact ⟨fun ⟨_, m, g, hm, hg, _⟩ => ⟨m, g, hm, hg⟩, fun ⟨m, g, hm, hg⟩ => ⟨_, m, g, hm, hg, rfl⟩⟩
  case winner =>
    obtain ⟨i, hi, hbest⟩ := mpcWinner_index h
    obtain ⟨m, g, hm, hg, rfl⟩ := candidateAt_eq_some_iff.1 hi
    exact ⟨i, m, g, hm, hg, rfl, fun i' m' g' hm' hg' =>
      hbest i' _ (candidateAt_eq_some_iff.2 ⟨m', g', hm', hg', rfl⟩)⟩
  case cost =>
    refine ⟨fun az haz hz => subBlockCost_of_allZero (fastPathWidth_of_find haz) (allZeroBytes_iff.2 hz),
      fun hz => ⟨fun aws haws hs => ?same, fun hs rows w hw => ?general⟩⟩
    case same =>
      exact subBlockCost_of_allWordSame (passesAllZero_of_absent_or_nonzero hz) (fastPathWidth_of_find haws)
        ((allWordsSame_iff hlen).2 hs)
    case general =>
      have hgeneral := subBlockCost_of_general (passesAllZero_of_absent_or_nonzero hz)
        (passesAllWordSame_of_absent_or_differs hlen hs)
      rw [hgeneral, generalCost_of_winner hw]

/-! ### From a sub-block to its matrix -/

theorem predictorsPredict_hold : predictorsPredict := by
  intro sb i
  refine ⟨fun _ => rfl, fun base off => ⟨fun j hj => ?based, fun hnone => ?baseless⟩,
    fun root => ⟨if_pos rfl, fun hi => if_neg hi⟩, rfl, rfl⟩
  case based =>
    simp only [predict, hj, BitVec.toNat_add, BitVec.toNat_ofInt]
    omega
  case baseless => simp only [predict, hnone]

theorem residues_getD {pr : Predictor} {sb : Line} {i : Nat} (hi : i < 32) :
    (residues pr sb).getD i 0 = sb.getD i 0 - predict pr sb i := by
  simp [residues, List.getD_eq_getElem?_getD, hi]

/-- The planes of the residues are the bits of the residues as numbers (R121). -/
theorem planeBit_residues {g : PredComp} {sb : Line} {i : Nat} (k : Nat) (hi : i < 32) :
    planeBit (residues g.pred sb) k i = (residueOf g sb i).testBit k := by
  rw [planeBit, residues_getD hi, ← BitVec.testBit_toNat, BitVec.toNat_sub, residueOf]
  congr 1
  omega

theorem xorConsecutive_iff {p : Params} {g : PredComp} :
    xorConsecutive p g = true ↔ g.xor = .consecutive ∨ p.mpcForceConsecXor = true := by
  simp [xorConsecutive]

theorem xorStage_residues {p : Params} {g : PredComp} {sb : Line} {i : Nat} (k : Nat) (hi : i < 32) :
    xorStage (xorConsecutive p g) (residues g.pred sb) k i = stageBit p g sb k i := by
  simp only [xorStage, stageBit, planeBit_residues _ hi, Bool.and_eq_true, xorConsecutive_iff, decide_eq_true_iff]

theorem mpcMatrix_row (p : Params) (g : PredComp) (sb : Line) (r : Nat) :
    (mpcMatrix p g sb).getD r [] =
      (g.scan.getD r []).map fun e => xorStage (xorConsecutive p g) (residues g.pred sb) e.1 e.2 :=
  List.getD_map (d := []) ..

theorem matrixIsScanned_hold : matrixIsScanned := by
  intro p g sb
  refine ⟨by simp [mpcMatrix], fun r c k i hscan _ hi => ?_⟩
  rw [mpcMatrix_row, List.getElem?_map, hscan, Option.map_some, xorStage_residues k hi]

/-! ### The bits of a matrix -/

theorem rowCategories_hold : rowCategories := by
  intro row _
  simp only [rowCost, allZeroBits_iff, twoAdjacentOnes_iff, popcount_eq_count]
  refine ⟨fun hone => if_pos hone, fun htwo => ?two, fun hone htwo => ⟨fun hfront => ?front, fun hback => ?back,
    fun hfront hback => ?both⟩⟩
  case two => rw [if_neg (by omega), if_pos htwo]
  case front => rw [if_neg hone, if_neg htwo, if_pos hfront]
  case back => rw [if_neg hone, if_neg htwo, if_pos hback, ite_self]
  case both => rw [if_neg hone, if_neg htwo, if_neg (not_not_intro hfront), if_neg (not_not_intro hback)]

theorem rowBits_nil : rowBits [] = 0 := rfl

theorem zeroRowsCost_zero : zeroRowsCost 0 = 0 := rfl

theorem zeroRowsCost_of_pos {run : Nat} (h : run ≠ 0) : zeroRowsCost run = if run = 1 then 4 else 7 := if_neg h

theorem rowBitsFrom_of_ones {row : List Bool} (run : Nat) (rest : List (List Bool)) (h : true ∈ row) :
    rowBitsFrom run (row :: rest) = zeroRowsCost run + rowCost row + rowBits rest := by
  rw [rowBitsFrom, if_neg (by simpa using h), rowBits]

theorem rowBits_of_ones {row : List Bool} (rest : List (List Bool)) (h : true ∈ row) :
    rowBits (row :: rest) = rowCost row + rowBits rest := by
  rw [rowBits, rowBitsFrom_of_ones 0 rest h, zeroRowsCost_zero, Nat.zero_add]

/-- Zero rows only lengthen the run before what follows them. -/
theorem rowBitsFrom_zeros_append {zeros : List (List Bool)} (run : Nat) (rest : List (List Bool))
    (h : ∀ row ∈ zeros, true ∉ row) :
    rowBitsFrom run (zeros ++ rest) = rowBitsFrom (run + zeros.length) rest := by
  induction zeros generalizing run with
  | nil => rfl
  | cons row zeros ih =>
    obtain ⟨hrow, hzeros⟩ := List.forall_mem_cons.1 h
    rw [List.cons_append, rowBitsFrom, if_pos (allZeroBits_iff.2 hrow), ih _ hzeros, List.length_cons]
    congr 1
    omega

/-- A run ends at the end of the matrix or at a row with a set bit (R125). -/
theorem rowBitsFrom_of_runEnd {rest : List (List Bool)} (run : Nat)
    (h : rest = [] ∨ ∃ row rest', rest = row :: rest' ∧ true ∈ row) :
    rowBitsFrom run rest = zeroRowsCost run + rowBits rest := by
  rcases h with rfl | ⟨row, rest', rfl, hrow⟩
  · rfl
  · rw [rowBitsFrom_of_ones run _ hrow, rowBits_of_ones _ hrow, Nat.add_assoc]

theorem rowBits_zeros_append {zeros rest : List (List Bool)} (hzeros : ∀ row ∈ zeros, true ∉ row)
    (hrest : rest = [] ∨ ∃ row rest', rest = row :: rest' ∧ true ∈ row) :
    rowBits (zeros ++ rest) = zeroRowsCost zeros.length + rowBits rest := by
  rw [rowBits, rowBitsFrom_zeros_append 0 rest hzeros, rowBitsFrom_of_runEnd _ hrest, Nat.zero_add]

theorem rowBitsByRuns_hold : rowBitsByRuns := by
  refine ⟨rowBits_nil, fun row rest hrow => rowBits_of_ones rest hrow, fun zeros rest hne hzeros hrest => ?_⟩
  rw [rowBits_zeros_append hzeros hrest, zeroRowsCost_of_pos (by simpa using hne)]

theorem rowCost_le (row : List Bool) : rowCost row ≤ 17 := by
  unfold rowCost
  repeat' split
  all_goals omega

theorem zeroRowsCost_le (run : Nat) : zeroRowsCost run ≤ 7 * run := by
  unfold zeroRowsCost
  repeat' split
  all_goals omega

theorem rowBitsFrom_le (run : Nat) (rows : List (List Bool)) :
    rowBitsFrom run rows ≤ 7 * run + 17 * rows.length := by
  induction rows generalizing run with
  | nil => exact zeroRowsCost_le run
  | cons row rest ih =>
    rw [rowBitsFrom, List.length_cons]
    split
    case isTrue =>
      have hrest := ih (run + 1)
      omega
    case isFalse =>
      have hrun := zeroRowsCost_le run
      have hrow := rowCost_le row
      have hrest := ih 0
      omega

/-- Settles O30: the stages up to the matrix, the categories and runs of its rows, and the two bounds. -/
theorem mpcRowBitsBounds : Obligations.MpcRowBitsBounds := by
  refine ⟨predictorsPredict_hold, matrixIsScanned_hold, rowCategories_hold, rowBitsByRuns_hold, fun rows => ?most,
    fun rows hlen hzero => ?zeros⟩
  case most => simpa [rowBits] using rowBitsFrom_le 0 rows
  case zeros =>
    have hbits := rowBits_zeros_append (rest := []) (by simpa using hzero) (.inl rfl)
    rw [List.append_nil] at hbits
    rw [hbits, zeroRowsCost_of_pos (by omega), if_neg (by omega), rowBits_nil]

/-! ### The sub-blocks of a line -/

/-- A read inside the first of two lines. -/
theorem memRead_append_left {a : Line} (b : Line) {addr n : Nat} (h : addr + n ≤ a.length) :
    memRead (a ++ b) addr n = memRead a addr n := by
  rw [memRead, memRead, List.drop_append_of_le_length (by omega),
    List.take_append_of_le_length (by rw [List.length_drop]; omega)]

/-- A read from the second of two lines on. -/
theorem memRead_append_right (a b : Line) (addr n : Nat) :
    memRead (a ++ b) (a.length + addr) n = memRead b addr n := by
  rw [memRead, memRead, List.drop_length_add_append]

/-- The sub-blocks of two lines put together are those of the one, then those of the other (R111). -/
theorem mpcBits_append (p : Params) {a : Line} (b : Line) (ha : a.length % 32 = 0) :
    mpcBits p (a ++ b) = mpcBits p a + mpcBits p b := by
  have hcount : (a ++ b).length / 32 = a.length / 32 + b.length / 32 := by
    rw [List.length_append]
    omega
  rw [mpcBits, hcount, List.range_add, List.map_append, List.sum_append, List.map_map]
  congr 2
  · refine List.map_congr_left fun k hk => ?_
    have hlt := List.mem_range.1 hk
    rw [memRead_append_left b (by omega)]
  · refine List.map_congr_left fun k _ => ?_
    have haddr : 32 * (a.length / 32 + k) = a.length + 32 * k := by omega
    rw [Function.comp_apply, haddr, memRead_append_right]

theorem mpcBits_of_subBlock (p : Params) {sb : Line} (h : sb.length = 32) : mpcBits p sb = subBlockCost p sb := by
  have hread : memRead sb 0 32 = sb := by rw [memRead, List.drop_zero, ← h, List.take_length]
  simp [mpcBits, h, hread]

/-- Settles O31: one sub-block's cost, and the sum of two lines. -/
theorem mpcSubBlocksAreIndependent : Obligations.MpcSubBlocksAreIndependent :=
  ⟨fun p _ h => mpcBits_of_subBlock p h, fun p _ b ha => mpcBits_append p b ha⟩

end Sys2Proof.Proofs
end

section
/-! PROOFS. The Base-Delta-Immediate encoder (spec/41_bdi.md R150 to R159): the command and its latch, the zero and the
repeated line, the choice among the configurations and what each costs, the range test and the wrapped distance. Settles
O16, O24, O25, O26. -/

namespace Sys2Proof.Proofs

open Sys2Proof.Machine Sys2Proof.Claims

/-! ### The commands -/

/-- Settles O16: COMPRESS writes RES, the latch and the totals from its line; RDSTATE copies the latch. -/
theorem bdiCompressLatchesTheStateThatRdstateReads : Obligations.BdiCompressLatchesTheStateThatRdstateReads := by
  intro s hrun
  refine ⟨fun n hpos hunit hmax => ?compress, ?rdstate⟩
  case compress =>
    change execBdiCompress n s = _
    exact runCommand_of_line hrun hpos hunit hmax
  case rdstate =>
    change execBdiRdstate s = _
    rw [BitVec.ofNat_toNat]
    exact runCommand_of_total hrun

/-! ### The selection -/

theorem bdiAllZero_iff {line : Line} : bdiAllZero line = true ↔ ∀ b ∈ line, b = 0 := by
  simp [bdiAllZero]

theorem bdiRepeated_iff {line : Line} :
    bdiRepeated line = true ↔ ∀ j < line.length / 8, memReadLE line (8 * j) 8 = memReadLE line 0 8 := by
  simp [bdiRepeated, lineWords]

theorem bdiSelect_of_allZero (p : Params) {line : Line} (h : bdiAllZero line = true) : bdiSelect p line = (0, 8) :=
  if_pos h

theorem bdiSelect_of_repeated (p : Params) {line : Line} (hzero : bdiAllZero line = false)
    (h : bdiRepeated line = true) : bdiSelect p line = (1, 64) := by
  simp [bdiSelect, hzero, h, bdiRepeat]

/-- Of a list of configurations that is not empty, the encoder finds one of least cost, the earliest such (R153). -/
theorem cheapestConfig_eq_some (p : Params) (line : Line) {l : List (Nat × (Nat × Nat))} (h : l ≠ []) :
    ∃ i q b d : Nat, l[i]? = some (q, (b, d)) ∧ cheapestConfig p line l = some (q, configCost p line b d) ∧
      ∀ j < i, ∀ e : Nat × (Nat × Nat), l[j]? = some e → configCost p line b d < configCost p line e.2.1 e.2.2 := by
  induction l with
  | nil => exact absurd rfl h
  | cons a rest ih =>
    obtain ⟨q, b, d⟩ := a
    by_cases hrest : rest = []
    · subst hrest
      exact ⟨0, q, b, d, rfl, rfl, fun j hj => absurd hj (Nat.not_lt_zero j)⟩
    · obtain ⟨i, q', b', d', hi, hbest, hearlier⟩ := ih hrest
      by_cases hlt : configCost p line b' d' < configCost p line b d
      · refine ⟨i + 1, q', b', d', hi, by simp only [cheapestConfig, hbest, if_pos hlt], fun j hj e he => ?_⟩
        cases j with
        | zero => cases he; exact hlt
        | succ j => exact hearlier j (Nat.lt_of_succ_lt_succ hj) e he
      · exact ⟨0, q, b, d, rfl, by simp only [cheapestConfig, hbest, if_neg hlt],
          fun j hj => absurd hj (Nat.not_lt_zero j)⟩

/-- Configuration q = (b, d) is the earliest of the least cost on a line (R153, R154). -/
def IsCheapest (p : Params) (line : Line) (q b d : Nat) : Prop :=
  bdiConfigs[q]? = some (b, d) ∧
  (∀ c ∈ bdiConfigs, configCost p line b d ≤ configCost p line c.1 c.2) ∧
  ∀ j < q, ∀ c, bdiConfigs[j]? = some c → configCost p line b d < configCost p line c.1 c.2

/-- The six configurations, each with its index, as the selection searches them. -/
abbrev indexedConfigs : List (Nat × (Nat × Nat)) := bdiConfigs.zipIdx.map fun e => (e.2, e.1)

theorem indexedConfigs_getElem? (i : Nat) : indexedConfigs[i]? = bdiConfigs[i]?.map fun c => (i, c) := by
  simp [indexedConfigs, List.getElem?_zipIdx, Function.comp_def]

theorem cheapestConfig_indexedConfigs (p : Params) (line : Line) :
    ∃ q b d, IsCheapest p line q b d ∧
      cheapestConfig p line indexedConfigs = some (q, configCost p line b d) := by
  obtain ⟨i, q, b, d, hi, hbest, hearlier⟩ := cheapestConfig_eq_some p line (l := indexedConfigs) (by decide)
  obtain ⟨_, hleast⟩ := cheapestConfig_spec hbest
  obtain ⟨_, hi, heq⟩ := Option.map_eq_some_iff.1 ((indexedConfigs_getElem? i).symm.trans hi)
  cases heq
  refine ⟨i, b, d, ⟨hi, fun c hc => ?least, fun j hj c hc => ?earliest⟩, hbest⟩
  case least =>
    obtain ⟨j, hj⟩ := List.getElem?_of_mem hc
    have hmem : (j, c) ∈ indexedConfigs :=
      List.mem_of_getElem? (by rw [indexedConfigs_getElem?, hj, Option.map_some])
    exact hleast (j, c) hmem
  case earliest => exact hearlier j hj (j, c) (by rw [indexedConfigs_getElem?, hc, Option.map_some])

/-- A line that is neither zero nor a repeat: the earliest cheapest configuration if it is below raw, else raw (R153). -/
theorem bdiSelect_of_general (p : Params) {line : Line} (hzero : bdiAllZero line = false)
    (hrep : bdiRepeated line = false) :
    ∃ q b d, IsCheapest p line q b d ∧
      bdiSelect p line =
        if configCost p line b d < 8 * line.length then (BitVec.ofNat 4 (2 + q), configCost p line b d)
        else (8, 8 * line.length) := by
  obtain ⟨q, b, d, hcheapest, hbest⟩ := cheapestConfig_indexedConfigs p line
  refine ⟨q, b, d, hcheapest, ?_⟩
  simp only [bdiSelect, hzero, hrep, hbest]
  rfl

theorem bdiSelect_of_noneBelowRaw {p : Params} {line : Line} (hzero : bdiAllZero line = false)
    (hrep : bdiRepeated line = false)
    (h : ∀ c ∈ bdiConfigs, 8 * line.length ≤ configCost p line c.1 c.2) :
    bdiSelect p line = (8, 8 * line.length) := by
  obtain ⟨q, b, d, ⟨hq, _, _⟩, hselect⟩ := bdiSelect_of_general p hzero hrep
  rw [hselect, if_neg (Nat.not_lt.2 (h _ (List.mem_of_getElem? hq)))]

theorem bdiSelect_of_oneBelowRaw {p : Params} {line : Line} (hzero : bdiAllZero line = false)
    (hrep : bdiRepeated line = false)
    (h : ∃ c ∈ bdiConfigs, configCost p line c.1 c.2 < 8 * line.length) :
    ∃ q b d, IsCheapest p line q b d ∧ configCost p line b d < 8 * line.length ∧
      bdiSelect p line = (BitVec.ofNat 4 (2 + q), configCost p line b d) := by
  obtain ⟨c, hc, hbelow⟩ := h
  obtain ⟨q, b, d, ⟨hq, hleast, hearliest⟩, hselect⟩ := bdiSelect_of_general p hzero hrep
  have hlt := Nat.lt_of_le_of_lt (hleast c hc) hbelow
  exact ⟨q, b, d, ⟨hq, hleast, hearliest⟩, hlt, hselect.trans (if_pos hlt)⟩

/-- The body of a line of at least one 8-byte word is at most raw (R159 (e)). -/
theorem bdiSelect_bits_le (p : Params) {line : Line} (hlen : 8 ≤ line.length) :
    (bdiSelect p line).2 ≤ 8 * line.length := by
  cases hzero : bdiAllZero line with
  | true => rw [bdiSelect_of_allZero p hzero]; omega
  | false =>
    cases hrep : bdiRepeated line with
    | true => rw [bdiSelect_of_repeated p hzero hrep]; omega
    | false =>
      obtain ⟨q, b, d, _, hselect⟩ := bdiSelect_of_general p hzero hrep
      rw [hselect]
      split
      case isTrue hlt => exact Nat.le_of_lt hlt
      case isFalse => exact Nat.le_refl _

/-! ### Lines of one word -/

/-- Word j of a line that repeats one word is that word. -/
theorem memRead_flatten_replicate (w : Line) {j k : Nat} (hj : j < k) :
    memRead (List.replicate k w).flatten (w.length * j) w.length = w := by
  have hsplit : List.replicate k w = List.replicate j w ++ w :: List.replicate (k - j - 1) w := by
    rw [← List.replicate_succ, ← List.replicate_add]
    congr 1
    omega
  have haddr : w.length * j = (List.replicate j w).flatten.length + 0 := by simp [Nat.mul_comm]
  rw [hsplit, List.flatten_append, List.flatten_cons, haddr, memRead_append_right,
    memRead_append_left _ (by omega), memRead, List.drop_zero, List.take_length]

theorem bdiAllZero_flatten_replicate {w : Line} {k : Nat} (hw : w.length = 8) (hk : 0 < k) :
    bdiAllZero (List.replicate k w).flatten = true ↔ w = List.replicate 8 0 := by
  have hmem (b : Byte) : b ∈ (List.replicate k w).flatten ↔ b ∈ w := by
    simp [List.mem_flatten, List.mem_replicate, Nat.ne_of_gt hk]
  simp only [bdiAllZero_iff, hmem, List.eq_replicate_iff, hw, true_and]

theorem bdiRepeated_flatten_replicate {w : Line} {k : Nat} (hw : w.length = 8) (hk : 0 < k) :
    bdiRepeated (List.replicate k w).flatten = true := by
  have hread (j : Nat) (hj : j < k) : memReadLE (List.replicate k w).flatten (8 * j) 8 = leValue w := by
    have := memRead_flatten_replicate w hj
    rw [hw] at this
    rw [memReadLE, this]
  have hcount : (List.replicate k w).flatten.length / 8 = k := by simp [hw]
  rw [bdiRepeated_iff, hcount]
  exact fun j hj => (hread j hj).trans (hread 0 hk).symm

/-- Settles O24: the line repeats its word, and is zero exactly if the word is. -/
theorem bdiZeroAndRepeatedLines : Obligations.BdiZeroAndRepeatedLines := by
  intro p w k hw hk
  refine ⟨fun hzero => ?zero, fun hne => ?repeated⟩
  case zero =>
    have hselect := bdiSelect_of_allZero p ((bdiAllZero_flatten_replicate hw hk).2 hzero)
    simp only [bdiBits, hselect, and_self]
  case repeated =>
    have hnonzero := Bool.eq_false_of_not_eq_true (mt (bdiAllZero_flatten_replicate hw hk).1 hne)
    have hselect := bdiSelect_of_repeated p hnonzero (bdiRepeated_flatten_replicate hw hk)
    simp only [bdiBits, hselect, and_self]

/-! ### What a configuration costs -/

theorem signedWords_eq_bdiWords (b : Nat) (line : Line) : signedWords b line = bdiWords line b := by
  simp only [signedWords, lineWords, List.map_map]
  rfl

theorem bdiWords_length (line : Line) (b : Nat) : (bdiWords line b).length = line.length / b := by
  simp [bdiWords]

/-- The words that are not immediate (R156). -/
abbrev wideWords (d : Nat) (words : List Int) : List Int := words.filter fun v => !fits v d

theorem wideWords_length (d : Nat) (words : List Int) :
    (wideWords d words).length = words.length - words.countP fun v => fits v d := by
  have hsum := List.length_eq_countP_add_countP (fun v => fits v d) (l := words)
  have hwide : (wideWords d words).length = words.countP fun v => decide ¬fits v d = true := by
    simp [wideWords, List.countP_eq_length_filter]
  omega

theorem wideWords_of_immediate {d : Nat} {words : List Int} (h : ∀ v ∈ words, fits v d = true) :
    wideWords d words = [] := by
  simpa [wideWords] using h

/-- The base is the first word that is not immediate. -/
theorem wideWords_of_base {d : Nat} {before after : List Int} {base : Int} (hbefore : ∀ v ∈ before, fits v d = true)
    (hbase : fits base d = false) : wideWords d (before ++ base :: after) = base :: wideWords d after := by
  have hnone := wideWords_of_immediate hbefore
  simp only [wideWords] at hnone ⊢
  simp [hnone, hbase]

/-- With the default BDI_MASK_BITS: one bit a word, D bytes for each immediate word, and the others (R156; D21). -/
theorem configCost_default {p : Params} (h : p.bdiMaskBits = []) (line : Line) (b d : Nat) :
    configCost p line b d =
      line.length / b + 8 * (((bdiWords line b).countP fun v => fits v d) * d +
        bdiRemainderBytes p b d (wideWords d (bdiWords line b))) := by
  simp only [configCost, signedWords_eq_bdiWords, bdiMask, h, List.lookup_nil, Option.getD_none, bdiWords_length,
    List.countP_eq_length_filter]

/-- With the default BDI_DELTA_FOR_BASE_WORD, when every distance fits: the base whole, D bytes for the others (D23). -/
theorem bdiRemainderBytes_of_near {p : Params} (h : p.bdiDeltaForBaseWord = false) {b d : Nat} {base : Int}
    {others : List Int} (hnear : ∀ v ∈ others, fits (wrappedDistance v base) d = true) :
    bdiRemainderBytes p b d (base :: others) = b + others.length * d := by
  simp only [bdiRemainderBytes, if_pos (List.all_eq_true.2 hnear), h]
  rfl

theorem bdiRemainderBytes_of_far (p : Params) {b d : Nat} {base : Int} {others : List Int}
    (hfar : ∃ v ∈ others, fits (wrappedDistance v base) d = false) :
    bdiRemainderBytes p b d (base :: others) = (others.length + 1) * b := by
  obtain ⟨v, hv, hd⟩ := hfar
  have hnot : ¬(others.all fun v => fits (wrappedDistance v base) d) = true := by
    rw [List.all_eq_true]
    exact fun hall => Bool.false_ne_true (hd.symm.trans (hall v hv))
  simp only [bdiRemainderBytes, if_neg hnot]

/-- Settles O25: the selection by its three cases, and each configuration's cost by its non-immediate words. -/
theorem bdiNeverExceedsRawByMoreThanFour : Obligations.BdiNeverExceedsRawByMoreThanFour := by
  refine ⟨rfl, fun p line hne hunit => ?selection, ?costs⟩
  case selection =>
    have hpos := List.length_pos_of_ne_nil hne
    refine ⟨bdiAllZero_iff, bdiRepeated_iff, rfl, Nat.add_le_add_left (bdiSelect_bits_le p (by omega)) 4,
      fun hzero hrep => ⟨bdiSelect_of_noneBelowRaw hzero hrep, fun hbelow => ?_⟩⟩
    obtain ⟨q, b, d, ⟨hq, hleast, hearliest⟩, hlt, hselect⟩ := bdiSelect_of_oneBelowRaw hzero hrep hbelow
    exact ⟨q, b, d, hq, hlt, hselect, hleast, hearliest⟩
  case costs =>
    rintro p line b d n k hmask hdelta rfl rfl
    have hcost := configCost_default hmask line b d
    have hwide := wideWords_length d (bdiWords line b)
    rw [bdiWords_length] at hwide
    refine ⟨fun himm => ?immediate, fun before base after hwords hbefore hbase => ?_⟩
    case immediate =>
      have hall : ((bdiWords line b).countP fun v => fits v d) = line.length / b :=
        (List.countP_eq_length.2 himm).trans (bdiWords_length line b)
      rw [hcost, wideWords_of_immediate himm, hall, bdiRemainderBytes, Nat.add_zero]
    have hothers : wideWords d (bdiWords line b) = base :: wideWords d after :=
      (congrArg _ hwords).trans (wideWords_of_base hbefore hbase)
    rw [hothers, List.length_cons] at hwide
    rw [hcost, hothers, ← hwide, Nat.add_sub_cancel]
    refine ⟨fun hnear => ?near, fun hfar => ?far⟩
    case near =>
      rw [bdiRemainderBytes_of_near hdelta]
      simpa [wideWords] using hnear
    case far =>
      rw [bdiRemainderBytes_of_far p]
      simpa [wideWords, and_assoc] using hfar

/-! ### The range test and the distance -/

theorem inSigned_iff {bits : Nat} {v : Int} :
    inSigned bits v = true ↔ -(2 ^ (bits - 1) : Int) ≤ v ∧ v ≤ 2 ^ (bits - 1) - 1 := by
  rw [inSigned, decide_eq_true_iff, Int.le_sub_one_iff]

/-- A wider signed number has the larger range. -/
theorem inSigned_mono {a b : Nat} {v : Int} (hab : a ≤ b) (h : inSigned a v = true) : inSigned b v = true := by
  have hpow : (2 ^ (a - 1) : Int) ≤ 2 ^ (b - 1) := pow_le_pow_right₀ (by decide) (by omega)
  rw [inSigned_iff] at h ⊢
  omega

/-- `sig` of a 64-bit value: a width whose range holds it, and no smaller one does (R155). -/
theorem reduceSign_spec {v : Int} (h : inSigned 64 v = true) :
    1 ≤ reduceSign v ∧ inSigned (reduceSign v) v = true ∧ ∀ w, 1 ≤ w → inSigned w v = true → reduceSign v ≤ w := by
  have hfound : ((List.range' 1 64).find? fun w => inSigned w v).isSome = true :=
    List.find?_isSome.2 ⟨64, by decide, h⟩
  obtain ⟨r, hr⟩ := Option.isSome_iff_exists.1 hfound
  obtain ⟨hin, hmem, hbelow⟩ := List.find?_range'_eq_some.1 hr
  rw [reduceSign, hr, Option.getD_some]
  refine ⟨(List.mem_range'_1.1 hmem).1, hin, fun w hw hwin => Nat.le_of_not_lt fun hlt => ?_⟩
  exact absurd (hbelow w hw hlt) (by simp [hwin])

theorem inSigned_iff_reduceSign_le {v : Int} (h : inSigned 64 v = true) {w : Nat} (hw : 1 ≤ w) :
    inSigned w v = true ↔ reduceSign v ≤ w := by
  obtain ⟨_, hin, hleast⟩ := reduceSign_spec h
  exact ⟨hleast w hw, fun hle => inSigned_mono hle hin⟩

/-- The distance is the balanced remainder modulo 2^64. -/
theorem wrappedDistance_eq_bmod (v base : Int) : wrappedDistance v base = (v - base).bmod (2 ^ 64) := by
  rw [wrappedDistance, sext, Int.bmod_def]
  norm_num
  split <;> omega

/-- Settles O26: the range test as a comparison, `sig` as the least width, the distance as the balanced remainder. -/
theorem bdiRangeTestAndDistance : Obligations.BdiRangeTestAndDistance := by
  refine ⟨fun v d => inSigned_iff, fun v hlo hhi => ?sig, fun v base => ?modulo, fun v base hv hv' hb hb' => ?exact,
    by decide⟩
  case sig =>
    have h64 : inSigned 64 v = true := inSigned_iff.2 ⟨hlo, Int.le_sub_one_of_lt hhi⟩
    obtain ⟨hpos, hin, hleast⟩ := reduceSign_spec h64
    exact ⟨⟨hpos, inSigned_iff.1 hin⟩, fun w hw hlow hhigh => hleast w hw (inSigned_iff.2 ⟨hlow, hhigh⟩),
      fun d hd _ => inSigned_iff_reduceSign_le h64 (by omega)⟩
  case modulo =>
    rw [wrappedDistance_eq_bmod]
    exact ⟨Int.emod_eq_zero_of_dvd Int.dvd_bmod_sub_self, Int.le_bmod (by decide), Int.bmod_lt (by decide)⟩
  case exact =>
    rw [wrappedDistance_eq_bmod]
    exact Int.bmod_eq_of_le (by norm_num; omega) (by norm_num; omega)

end Sys2Proof.Proofs
end

section
/-! PROOFS. The Frequent-Pattern encoder's categories (spec/42_fpc.md R172, R174, R176) and the bounds of a line's cost
(R173): the categories as ranges of the word, why the order in which they are tried loses no bits, and the cost from what a
word can add. Settles O22 and O23. -/

namespace Sys2Proof.Proofs

open Sys2Proof.Machine Sys2Proof.Claims

/-! ### The categories as ranges of the word -/

/-- A pattern's signed reading is in the range of a narrower signed number when the pattern is near either end of its own
range. -/
theorem inSigned_sext_iff {bits n v : Nat} (hn : 1 ≤ n) (hle : n ≤ bits) (hv : v < 2 ^ bits) :
    inSigned n (sext bits v) = true ↔ v < 2 ^ (n - 1) ∨ 2 ^ bits - 2 ^ (n - 1) ≤ v := by
  have hhalf : 2 ^ (n - 1) ≤ 2 ^ (bits - 1) := Nat.pow_le_pow_right (by decide) (by omega)
  have hdouble : 2 ^ bits = 2 * 2 ^ (bits - 1) := (mul_pow_sub_one (by omega) 2).symm
  rw [inSigned_iff, sext]
  zify [show 2 ^ (n - 1) ≤ 2 ^ bits by omega] at hhalf hdouble hv ⊢
  split <;> omega

theorem fpcTwoHalves_iff {w : Nat} (hw : w < 2 ^ 32) :
    fpcTwoHalves w = true ↔
      (w % 2 ^ 16 < 128 ∨ 2 ^ 16 - 128 ≤ w % 2 ^ 16) ∧ (w / 2 ^ 16 < 128 ∨ 2 ^ 16 - 128 ≤ w / 2 ^ 16) := by
  have hhigh : highHalf w = w / 2 ^ 16 := Nat.mod_eq_of_lt (by omega)
  rw [fpcTwoHalves, hhigh, lowHalf, Bool.and_eq_true, inSigned_sext_iff (by decide) (by decide) (by omega),
    inSigned_sext_iff (by decide) (by decide) (by omega), and_comm]
  norm_num

theorem fpcRepeatedByte_iff {w : Nat} (hw : w < 2 ^ 32) :
    fpcRepeatedByte w = true ↔ ∃ b < 256, w = b + 2 ^ 8 * b + 2 ^ 16 * b + 2 ^ 24 * b := by
  simp only [fpcRepeatedByte, Bool.and_eq_true, beq_iff_eq]
  constructor
  · rintro ⟨⟨h3, h2⟩, h1⟩
    have : w / 2 ^ 16 = w / 2 ^ 8 / 256 := by omega
    have : w / 2 ^ 24 = w / 2 ^ 16 / 256 := by omega
    exact ⟨w % 256, by omega, by omega⟩
  · rintro ⟨b, hb, hbytes⟩
    have : w / 2 ^ 24 = b := by omega
    have : w / 2 ^ 16 = b + 2 ^ 8 * b := by omega
    have : w / 2 ^ 8 = b + 2 ^ 8 * b + 2 ^ 16 * b := by omega
    omega

theorem fpcZeroPadded_iff {p : Params} (hp : p.fpcZp16LowZero = true) (w : Nat) :
    fpcZeroPadded p w = true ↔ w % 2 ^ 16 = 0 := by
  simp [fpcZeroPadded, hp, lowHalf]

/-- With either reading of ZP16 a halfword of the word is zero (log 16). -/
theorem zeroHalf_of_fpcZeroPadded {p : Params} {w : Nat} (hw : w < 2 ^ 32) (h : fpcZeroPadded p w = true) :
    w % 2 ^ 16 = 0 ∨ w / 2 ^ 16 = 0 := by
  rw [fpcZeroPadded] at h
  split at h
  · exact .inl (beq_iff_eq.1 h)
  · have hhigh : w / 2 ^ 16 % 2 ^ 16 = 0 := beq_iff_eq.1 h
    omega

/-! ### The first category is the cheapest -/

/-- The word is in one of the categories of 16 bits: SE16, ZP16 or H8 (R174). -/
abbrev fpcIn16 (p : Params) (w : Nat) : Prop :=
  inSigned 16 (sext 32 w) = true ∨ fpcZeroPadded p w = true ∨ fpcTwoHalves w = true

/-- Why REP, cheaper than the categories of 16 bits, may come after them: a word of four equal bytes that is in one of
them has the bytes 0x00 or 0xFF, so it is in SE4, the first. -/
theorem signed4_of_fpcRepeatedByte {p : Params} {w : Nat} (hw : w < 2 ^ 32) (hrep : fpcRepeatedByte w = true)
    (h16 : fpcIn16 p w) : inSigned 4 (sext 32 w) = true := by
  obtain ⟨b, hb, hbytes⟩ := (fpcRepeatedByte_iff hw).1 hrep
  have hends : b = 0 ∨ b = 255 := by
    rcases h16 with hse16 | hzero | hhalves
    · have := (inSigned_sext_iff (by decide) (by decide) hw).1 hse16
      omega
    · have := zeroHalf_of_fpcZeroPadded hw hzero
      omega
    · have := (fpcTwoHalves_iff hw).1 hhalves
      omega
  rw [inSigned_sext_iff (by decide) (by decide) hw]
  omega

/-- The branches of the payload: the bit count is that of a category which the word matches. -/
theorem fpcPayload_cases (p : Params) (w : Nat) :
    (fpcPayload p w = 4 ∧ inSigned 4 (sext 32 w) = true) ∨
      (fpcPayload p w = 8 ∧ (inSigned 8 (sext 32 w) = true ∨ fpcRepeatedByte w = true)) ∨
      (fpcPayload p w = 16 ∧ fpcIn16 p w) ∨ fpcPayload p w = 32 := by
  unfold fpcPayload
  split_ifs <;> simp [fpcIn16, *]

theorem fpcPayload_le (p : Params) (w : Nat) : fpcPayload p w ≤ 32 := by
  rcases fpcPayload_cases p w with ⟨h, _⟩ | ⟨h, _⟩ | ⟨h, _⟩ | h <;> omega

theorem fpcPayload_of_signed4 {p : Params} {w : Nat} (h : inSigned 4 (sext 32 w) = true) : fpcPayload p w = 4 := by
  simp [fpcPayload, h]

theorem fpcPayload_le_of_signed8 {p : Params} {w : Nat} (h : inSigned 8 (sext 32 w) = true) : fpcPayload p w ≤ 8 := by
  unfold fpcPayload
  split_ifs <;> simp

theorem fpcPayload_le_of_fpcIn16 {p : Params} {w : Nat} (h : fpcIn16 p w) : fpcPayload p w ≤ 16 := by
  unfold fpcPayload
  split_ifs with _ _ hse16 hzero hhalves
  any_goals decide
  -- the last branch, 32 bits
  exact absurd h (by simp [hse16, hzero, hhalves])

/-- A repeated byte is either in SE4 or in none of the categories of 16 bits, so the payload is found before them or at REP. -/
theorem fpcPayload_le_of_fpcRepeatedByte {p : Params} {w : Nat} (hw : w < 2 ^ 32) (hrep : fpcRepeatedByte w = true) :
    fpcPayload p w ≤ 8 := by
  by_cases h16 : fpcIn16 p w
  · rw [fpcPayload_of_signed4 (signed4_of_fpcRepeatedByte hw hrep h16)]
    decide
  · obtain ⟨hse16, hzero, hhalves⟩ := by simpa only [not_or] using h16
    unfold fpcPayload
    rw [if_neg hse16, if_neg hzero, if_neg hhalves, if_pos hrep]
    split_ifs <;> decide

/-- Settles O22: the categories as ranges, the payload's branches, and each category's bit count as a bound of it. -/
theorem fpcFirstCategoryIsTheCheapest : Obligations.FpcFirstCategoryIsTheCheapest := by
  refine ⟨fun w hw => ?ranges, fun p w _ hw => ?cheapest⟩
  case ranges =>
    exact ⟨fun n hn hle => inSigned_sext_iff hn hle hw, fpcTwoHalves_iff hw, fpcRepeatedByte_iff hw,
      fun p hp => fpcZeroPadded_iff hp w⟩
  case cheapest =>
    exact ⟨fpcPayload_cases p w, fun hse4 => (fpcPayload_of_signed4 hse4).le, fpcPayload_le_of_signed8,
      fun hse16 => fpcPayload_le_of_fpcIn16 (.inl hse16), fun hzero => fpcPayload_le_of_fpcIn16 (.inr (.inl hzero)),
      fun hhalves => fpcPayload_le_of_fpcIn16 (.inr (.inr hhalves)), fpcPayload_le_of_fpcRepeatedByte hw,
      fpcPayload_le p w⟩

/-! ### The bounds of a line's cost -/

theorem fpcCodeBits_le {p : Params} (hp : p.fpcZrunPayload = 0) (prev w : Nat) : fpcCodeBits p prev w ≤ 35 := by
  have := fpcPayload_le p w
  unfold fpcCodeBits
  split_ifs <;> omega

/-- Only a word inside a zero run adds nothing. -/
theorem three_le_fpcCodeBits (p : Params) {prev : Nat} (hprev : prev ≠ 0) (w : Nat) : 3 ≤ fpcCodeBits p prev w := by
  unfold fpcCodeBits
  split_ifs <;> omega

theorem fpcWordsBits_le {p : Params} (hp : p.fpcZrunPayload = 0) (prev : Nat) (ws : List Nat) :
    fpcWordsBits p (prev == 0) ws ≤ 35 * ws.length := by
  induction ws generalizing prev with
  | nil => exact Nat.zero_le _
  | cons w ws ih =>
    have hword := fpcCodeBits_le hp prev w
    have hrest := ih w
    rw [fpcWordsBits_cons, List.length_cons]
    omega

theorem three_le_fpcWordsBits (p : Params) {ws : List Nat} (hws : ws ≠ []) : 3 ≤ fpcWordsBits p false ws := by
  obtain ⟨w, rest, rfl⟩ := List.exists_cons_of_ne_nil hws
  calc 3 ≤ fpcCodeBits p 1 w := three_le_fpcCodeBits p one_ne_zero w
    _ ≤ fpcCodeBits p 1 w + fpcWordsBits p (w == 0) rest := Nat.le_add_right _ _
    _ = fpcWordsBits p false (w :: rest) := (fpcWordsBits_cons p 1 w rest).symm

theorem lineWords_length (width : Nat) (line : Line) : (lineWords width line).length = line.length / width := by
  rw [lineWords, List.length_map, List.length_range]

/-- Settles O23: a line of at least one word, entered as after a non-zero word, pays for its first word. -/
theorem fpcCostBounds : Obligations.FpcCostBounds := by
  intro p line hp hlen
  have hcount := lineWords_length 4 line
  have hwords : lineWords 4 line ≠ [] := List.ne_nil_of_length_pos (by omega)
  exact ⟨three_le_fpcWordsBits p hwords, hcount ▸ fpcWordsBits_le hp 1 (lineWords 4 line)⟩

end Sys2Proof.Proofs
end

section
/-! PROOFS. The Bit-Plane encoder on a line of equal words (spec/43_bpc.md R193 (b)): equal rows have zero deltas, so
every DBX plane is zero and the columns form one run. Settles O27. -/

namespace Sys2Proof.Proofs

open Sys2Proof.Machine Sys2Proof.Claims

/-! ### The rows of a line of equal words -/

theorem memReadLE_flatten_replicate {w : Line} {n j k : Nat} (hw : w.length = n) (hj : j < k) :
    memReadLE (List.replicate k w).flatten (n * j) n = memReadLE w 0 n := by
  subst hw
  rw [memReadLE, memRead_flatten_replicate w hj, memReadLE, memRead, List.drop_zero, List.take_length]

theorem signedWords_flatten_replicate {w : Line} (k : Nat) (hw : w.length = 4) :
    signedWords 4 (List.replicate k w).flatten = List.replicate k (sext 32 (memReadLE w 0 4)) := by
  have hcount : (List.replicate k w).flatten.length / 4 = k := by simp [hw]
  rw [signedWords_four, hcount, List.eq_replicate_iff]
  refine ⟨by simp, fun x hx => ?_⟩
  obtain ⟨j, hj, rfl⟩ := List.mem_map.1 hx
  rw [bpcRow, memReadLE_flatten_replicate hw (List.mem_range.1 hj)]

/-! ### Their deltas and planes -/

theorem bpcDeltas_replicate (k : Nat) (x : Int) : bpcDeltas (List.replicate k x) = List.replicate (k - 1) 0 := by
  have hrows : List.replicate k x = (List.range k).map fun _ => x := by simp
  rw [hrows, bpcDeltas_map_range]
  simp

theorem deltaPlane_replicate_zero (m c : Nat) : deltaPlane (List.replicate m 0) c = List.replicate m false := by
  rw [deltaPlane, List.map_replicate, Nat.zero_testBit]

theorem xorPlane_replicate_zero (m c : Nat) : xorPlane (List.replicate m 0) c = List.replicate m false := by
  simp only [xorPlane, deltaPlane_replicate_zero]
  split
  case isTrue => rfl
  case isFalse => simp

/-! ### The run of their columns -/

/-- While every DBX plane is zero the run only grows, and it is flushed below column 0 (R188). -/
theorem planesCost_of_zeroPlanes (p : Params) {deltas : List Nat} (hzero : ∀ c, true ∉ xorPlane deltas c)
    (run c : Nat) :
    planesCost p deltas run c = flushedRun p (run + c) := by
  induction c generalizing run with
  | zero => rfl
  | succ c ih => rw [planesCost, if_pos (allZeroBits_iff.2 (hzero c)), ih, Nat.add_assoc, Nat.add_comm 1 c]

/-- Settles O27: the rows are one word, their planes are zero, and the 33 columns are one run. -/
theorem bpcOfEqualWords : Obligations.BpcOfEqualWords := by
  intro p w k hw hk
  have hfirst (x : Int) : (List.replicate k x).headD 0 = x := by
    rw [← Nat.succ_pred_eq_of_pos hk, List.replicate_succ, List.headD_cons]
  have hzero (c : Nat) : true ∉ xorPlane (List.replicate (k - 1) 0) c := by simp [xorPlane_replicate_zero]
  have hrun : flushedRun p (0 + 33) = zrlCost p 33 := if_pos (by decide)
  rw [bpcBits, signedWords_flatten_replicate k hw, hfirst, bpcDeltas_replicate, planesCost_of_zeroPlanes p hzero, hrun]

end Sys2Proof.Proofs
end

section
/-! PROOFS. The dictionary word encoder (spec/44_cpack.md R205 to R210): what each outcome of the lookup costs and leaves,
the dictionary as a FIFO, the words of a line and the command. Settles O32, O33, O17. -/

namespace Sys2Proof.Proofs

open Sys2Proof.Machine Sys2Proof.Claims

/-! ### The lookup -/

theorem prefixMatch_ne_zero_iff {e b : Quad} : prefixMatch e b ≠ 0 ↔ e.b0 = b.b0 ∧ e.b1 = b.b1 := by
  unfold prefixMatch
  split
  case isTrue htwo =>
    refine iff_of_true ?_ htwo
    split <;> [split; skip] <;> decide
  case isFalse htwo => simp [htwo]

theorem prefixMatch_of_two {e b : Quad} (h0 : e.b0 = b.b0) (h1 : e.b1 = b.b1) :
    prefixMatch e b = if e.b2 = b.b2 then (if e.b3 = b.b3 then 4 else 3) else 2 := if_pos ⟨h0, h1⟩

theorem lookupMatch_firstHit_eq_none_iff {d : Dict} {b : Quad} :
    lookupMatch .firstHit d b = none ↔ ∀ e ∈ d, ¬(e.b0 = b.b0 ∧ e.b1 = b.b1) := by
  simp only [lookupMatch, List.find?_eq_none, List.forall_mem_map, decide_eq_true_eq, prefixMatch_ne_zero_iff]

/-- The scan passes the entries that do not match and stops at the first that does (R208). -/
theorem lookupMatch_firstHit_of_split {before : Dict} {e b : Quad} (after : Dict)
    (hbefore : ∀ x ∈ before, ¬(x.b0 = b.b0 ∧ x.b1 = b.b1)) (h0 : e.b0 = b.b0) (h1 : e.b1 = b.b1) :
    lookupMatch .firstHit (before ++ e :: after) b = some (prefixMatch e b) := by
  have hpassed : lookupMatch .firstHit before b = none := lookupMatch_firstHit_eq_none_iff.2 hbefore
  have hstop : prefixMatch e b ≠ 0 := prefixMatch_ne_zero_iff.2 ⟨h0, h1⟩
  simp only [lookupMatch] at hpassed ⊢
  rw [List.map_append, List.find?_append, hpassed, List.map_cons, List.find?_cons_of_pos (by simpa using hstop),
    Option.none_or]

/-! ### The cost of a word -/

theorem cpackWord_of_zeroPrefix (p : Params) (d : Dict) {b : Quad} (h : b.b0 = 0 ∧ b.b1 = 0 ∧ b.b2 = 0) :
    cpackWord p d b = (if b.b3 = 0 then 2 else 12, d) := by
  rw [cpackWord, if_pos h]
  split <;> rfl

theorem cpackWord_of_miss {p : Params} {d : Dict} {b : Quad} (hprefix : ¬(b.b0 = 0 ∧ b.b1 = 0 ∧ b.b2 = 0))
    (h : lookupMatch p.cpackMatch d b = none) : cpackWord p d b = (34, dictInsert d b) := by
  rw [cpackWord, if_neg hprefix, h]

theorem cpackWord_of_hit {p : Params} {d : Dict} {b : Quad} {n : Nat} (hprefix : ¬(b.b0 = 0 ∧ b.b1 = 0 ∧ b.b2 = 0))
    (h : lookupMatch p.cpackMatch d b = some n) :
    cpackWord p d b =
      if n = 4 then (6, d) else if n = 3 then (16, afterPartial p d b) else (24, afterPartial p d b) := by
  rw [cpackWord, if_neg hprefix, h]

theorem afterPartial_default {p : Params} (h : p.cpackInsertOnPartial = false) (d : Dict) (b : Quad) :
    afterPartial p d b = d := by simp [afterPartial, h]

/-- The cost 34 is the cost of a miss alone, whatever the policies (R207). -/
theorem cpackWord_cost_eq_34_iff {p : Params} {d : Dict} {b : Quad} :
    (cpackWord p d b).1 = 34 ↔
      ¬(b.b0 = 0 ∧ b.b1 = 0 ∧ b.b2 = 0) ∧ lookupMatch p.cpackMatch d b = none := by
  by_cases hprefix : b.b0 = 0 ∧ b.b1 = 0 ∧ b.b2 = 0
  case pos =>
    refine iff_of_false ?_ fun h => h.1 hprefix
    rw [cpackWord_of_zeroPrefix p d hprefix]
    split <;> simp
  case neg =>
    cases hlookup : lookupMatch p.cpackMatch d b with
    | none => exact iff_of_true (congrArg Prod.fst (cpackWord_of_miss hprefix hlookup)) ⟨hprefix, rfl⟩
    | some n =>
      refine iff_of_false ?_ (by simp)
      rw [cpackWord_of_hit hprefix hlookup]
      split <;> [skip; split] <;> simp

/-- With the default policies the first matching entry decides, and a hit leaves the dictionary (R207, R208). -/
theorem cpackWord_of_firstMatch {p : Params} (hmatch : p.cpackMatch = .firstHit)
    (hpartial : p.cpackInsertOnPartial = false) {before : Dict} {e b : Quad} (after : Dict)
    (hprefix : ¬(b.b0 = 0 ∧ b.b1 = 0 ∧ b.b2 = 0)) (hbefore : ∀ x ∈ before, ¬(x.b0 = b.b0 ∧ x.b1 = b.b1))
    (h0 : e.b0 = b.b0) (h1 : e.b1 = b.b1) :
    cpackWord p (before ++ e :: after) b =
      (if e.b2 = b.b2 then (if e.b3 = b.b3 then 6 else 16) else 24, before ++ e :: after) := by
  have hlookup := lookupMatch_firstHit_of_split after hbefore h0 h1
  rw [cpackWord_of_hit hprefix (hmatch ▸ hlookup), prefixMatch_of_two h0 h1, afterPartial_default hpartial]
  by_cases h2 : e.b2 = b.b2
  case pos => by_cases h3 : e.b3 = b.b3 <;> simp [h2, h3]
  case neg => simp [h2]

/-- Settles O32: the zero prefix, the miss and the first match, and 34 as the cost of the miss alone. -/
theorem cpackInsertsExactlyOnAMiss : Obligations.CpackInsertsExactlyOnAMiss := by
  intro p d b hmatch hpartial
  refine ⟨cpackWord_of_zeroPrefix p d, fun hprefix => ⟨fun hnone => ?miss, ?hit⟩, ?cost⟩
  case miss => exact cpackWord_of_miss hprefix (hmatch ▸ lookupMatch_firstHit_eq_none_iff.2 hnone)
  case hit =>
    rintro before e after rfl hbefore h0 h1
    exact cpackWord_of_firstMatch hmatch hpartial after hprefix hbefore h0 h1
  case cost => rw [cpackWord_cost_eq_34_iff, hmatch, lookupMatch_firstHit_eq_none_iff]

/-! ### The dictionary -/

/-- Inserting words moves a window of fixed size along the entries followed by the words (R209). -/
theorem foldl_dictInsert {d : Dict} (ws : List Quad) (hd : d ≠ []) :
    ws.foldl dictInsert d = (d ++ ws).drop ws.length := by
  induction ws generalizing d with
  | nil => simp
  | cons b ws ih =>
    obtain ⟨oldest, newer, rfl⟩ := List.exists_cons_of_ne_nil hd
    have hinsert : dictInsert (oldest :: newer) b = newer ++ [b] := rfl
    rw [List.foldl_cons, hinsert, ih (by simp), List.append_assoc, List.singleton_append, List.cons_append,
      List.length_cons, List.drop_succ_cons]

/-- Settles O33: once the window has moved past the sixteen entries, it lies in the inserted words. -/
theorem cpackDictionaryIsAFifo : Obligations.CpackDictionaryIsAFifo := by
  intro d ws hd hws
  have hpast : ws.length = d.length + (ws.length - 16) := by omega
  rw [foldl_dictInsert ws (List.ne_nil_of_length_pos (by omega))]
  conv_lhs => rw [hpast]
  exact List.drop_length_add_append (ws.length - 16)

/-! ### The words of a line -/

theorem lineQuads_nil : lineQuads [] = [] := rfl

theorem quadAt_add_four (b0 b1 b2 b3 : Byte) (rest : Line) (addr : Nat) :
    quadAt (b0 :: b1 :: b2 :: b3 :: rest) (addr + 4) = quadAt rest addr := rfl

/-- The first word of a line is its first four bytes, the others are the words of what follows. -/
theorem lineQuads_cons (b0 b1 b2 b3 : Byte) (rest : Line) :
    lineQuads (b0 :: b1 :: b2 :: b3 :: rest) = { b0 := b0, b1 := b1, b2 := b2, b3 := b3 } :: lineQuads rest := by
  have hcount : (b0 :: b1 :: b2 :: b3 :: rest).length / 4 = rest.length / 4 + 1 :=
    Nat.add_div_right rest.length four_pos
  rw [lineQuads, hcount, List.range_succ_eq_map, List.map_cons, List.map_map]
  refine congrArg₂ List.cons rfl (List.map_congr_left fun i _ => ?_)
  exact quadAt_add_four b0 b1 b2 b3 rest (4 * i)

theorem cpackLine_nil (p : Params) (d : Dict) : cpackLine p d [] = (0, d) := rfl

/-- A line's first word is looked up first; the rest meets the dictionary that it leaves (R205). -/
theorem cpackLine_cons {p : Params} {d d' d'' : Dict} {b0 b1 b2 b3 : Byte} {rest : Line} {bits more : Nat}
    (hword : cpackWord p d { b0 := b0, b1 := b1, b2 := b2, b3 := b3 } = (bits, d'))
    (hrest : cpackLine p d' rest = (more, d'')) :
    cpackLine p d (b0 :: b1 :: b2 :: b3 :: rest) = (bits + more, d'') := by
  rw [cpackLine] at hrest
  simp only [cpackLine, lineQuads_cons, cpackWords, hword, hrest]

/-- Settles O17: the command writes what its line costs and leaves, and a line is costed word by word. -/
theorem cpackCompressCompletes : Obligations.CpackCompressCompletes := by
  refine ⟨fun s n hrun hpos hunit hmax => ?command, fun p d => ⟨cpackLine_nil p d, ?words⟩⟩
  case command =>
    change execCpackCompress n s = _
    exact runCommand_of_line hrun hpos hunit hmax
  case words =>
    intro b0 b1 b2 b3 rest bits more d' d'' hword hrest
    exact cpackLine_cons hword hrest

end Sys2Proof.Proofs
end

section
/-! PROOFS. SC2's sample and its pruning (spec/45_sc2.md R220, R226): what a count adds, what sorting by a key gives,
and which symbols the cut keeps. Settles O34, O35. -/

namespace Sys2Proof.Proofs

open Sys2Proof.Machine Sys2Proof.Claims

/-! ### Counting -/

/-- A symbol below every symbol of a map is not in the map. -/
theorem lookup_eq_none_of_lt {m : SymMap} {sym : Word32} (h : ∀ e ∈ m, sym.toNat < e.1.toNat) :
    m.lookup sym = none := by
  refine List.lookup_eq_none_iff.2 fun e he => bne_iff_ne.2 fun heq => ?_
  exact (h e he).ne (congrArg BitVec.toNat heq)

/-- A symbol's count in a map is that of its first entry (R220). -/
theorem lookup_cons_getD (e : Word32 × Nat) (m : SymMap) (x : Word32) :
    ((e :: m).lookup x).getD 0 = if x = e.1 then e.2 else (m.lookup x).getD 0 := by
  obtain ⟨sym, n⟩ := e
  by_cases hx : x = sym
  · simp [hx]
  · simp [List.lookup_cons, beq_false_of_ne hx, hx]

/-- One count adds one to its own symbol and nothing to another; the canonical form keeps a symbol from standing twice
(R220; log 20). -/
theorem lookup_countSym {m : SymMap} (sym x : Word32) (h : symsRise m = true) :
    ((countSym sym m).lookup x).getD 0 = (m.lookup x).getD 0 + if x = sym then 1 else 0 := by
  induction m with
  | nil => simpa [countSym] using lookup_cons_getD (sym, 1) [] x
  | cons a m ih =>
    obtain ⟨hhead, hrest⟩ := symsRise_cons.1 h
    simp only [countSym]
    split
    case isTrue hlt =>
      have habsent : (a :: m).lookup sym = none :=
        lookup_eq_none_of_lt (List.forall_mem_cons.2 ⟨hlt, fun e he => hlt.trans (hhead e he)⟩)
      rw [lookup_cons_getD]
      by_cases hx : x = sym
      · simp [hx, habsent]
      · simp [hx]
    case isFalse =>
      split
      case isTrue heq => by_cases hx : x = a.1 <;> simp [lookup_cons_getD, heq, hx]
      case isFalse hne =>
        by_cases hx : x = a.1
        · simp [lookup_cons_getD, hx, Ne.symm hne]
        · simp [lookup_cons_getD, hx, ih hrest]

theorem lookup_countSyms {m : SymMap} (syms : List Word32) (x : Word32) (h : symsRise m = true) :
    ((countSyms m syms).lookup x).getD 0 = (m.lookup x).getD 0 + syms.count x := by
  induction syms generalizing m with
  | nil => rfl
  | cons sym syms ih =>
    calc ((countSyms m (sym :: syms)).lookup x).getD 0
        = ((countSym sym m).lookup x).getD 0 + syms.count x := ih (countSym_rises sym h)
      _ = (m.lookup x).getD 0 + (if x = sym then 1 else 0) + syms.count x := by rw [lookup_countSym sym x h]
      _ = (m.lookup x).getD 0 + (sym :: syms).count x := by
        simp only [List.count_cons, beq_iff_eq, eq_comm (a := x)]; omega

/-- Settles O34: counting symbol by symbol. -/
theorem samplingCountsEveryWord : Obligations.SamplingCountsEveryWord :=
  fun _ syms x h => ⟨countSyms_rises syms h, lookup_countSyms syms x h⟩

/-! ### Sorting by a key -/

section Keys

variable {α β : Type} [LinearOrder β] {before : α → α → Bool} {key : α → β}

/-- Insertion by a key keeps a list of rising keys, if the key is a new one. -/
theorem insertBy_rises (hbefore : ∀ a b, before a b = true ↔ key a < key b) {x : α} {l : List α}
    (hnew : ∀ y ∈ l, key x ≠ key y) (h : l.Pairwise fun a b => key a < key b) :
    (insertBy before x l).Pairwise fun a b => key a < key b := by
  induction l with
  | nil => exact List.pairwise_singleton _ _
  | cons y l ih =>
    obtain ⟨hy, hl⟩ := List.pairwise_cons.1 h
    obtain ⟨hxy, hxl⟩ := List.forall_mem_cons.1 hnew
    simp only [insertBy]
    split
    case isTrue hlt =>
      have hlt' := (hbefore x y).1 hlt
      exact List.pairwise_cons.2 ⟨List.forall_mem_cons.2 ⟨hlt', fun z hz => hlt'.trans (hy z hz)⟩, h⟩
    case isFalse hge =>
      have hyx : key y < key x := (lt_or_gt_of_ne hxy).resolve_left fun hlt => hge ((hbefore x y).2 hlt)
      refine List.pairwise_cons.2 ⟨fun z hz => ?_, ih hxl hl⟩
      rcases List.mem_cons.1 ((insertBy_perm before x l).mem_iff.1 hz) with rfl | hz
      · exact hyx
      · exact hy z hz

/-- Insertion sort by a key puts entries of different keys in rising order. -/
theorem sortBy_rises (hbefore : ∀ a b, before a b = true ↔ key a < key b) {l : List α}
    (h : l.Pairwise fun a b => key a ≠ key b) : (sortBy before l).Pairwise fun a b => key a < key b := by
  induction l with
  | nil => exact .nil
  | cons x l ih =>
    obtain ⟨hx, hl⟩ := List.pairwise_cons.1 h
    exact insertBy_rises hbefore (fun y hy => hx y ((sortBy_perm before l).mem_iff.1 hy)) (ih hl)

end Keys

/-! ### Pruning -/

/-- The key that pruning sorts by: frequency downwards, place among the preferences, symbol (R226; log 14). -/
def pruneKey (prefs : List Word32) (e : Word32 × Nat) : ℕᵒᵈ ×ₗ ℕ ×ₗ ℕ :=
  toLex (OrderDual.toDual e.2, toLex (rankIn prefs e.1, e.1.toNat))

theorem pruneBefore_iff_key (prefs : List Word32) (a b : Word32 × Nat) :
    pruneBefore prefs a b = true ↔ pruneKey prefs a < pruneKey prefs b := by
  simp only [pruneBefore, pruneKey, Prod.Lex.toLex_lt_toLex, OrderDual.toDual_lt_toDual, OrderDual.toDual_inj]
  by_cases hfreq : a.2 = b.2
  · by_cases hrank : rankIn prefs a.1 = rankIn prefs b.1 <;> simp [hfreq, hrank]
  · simp [hfreq]

/-- What the order of keys says of two entries. -/
theorem of_pruneKey_lt {prefs : List Word32} {a b : Word32 × Nat} (h : pruneKey prefs a < pruneKey prefs b) :
    b.2 ≤ a.2 ∧ (prefs = [] → b.2 = a.2 → a.1.toNat < b.1.toNat) := by
  simp only [pruneKey, Prod.Lex.toLex_lt_toLex, OrderDual.toDual_lt_toDual, OrderDual.toDual_inj] at h
  rcases h with hfreq | ⟨hfreq, htie⟩
  · exact ⟨hfreq.le, fun _ heq => absurd heq hfreq.ne⟩
  · refine ⟨hfreq.ge, fun hprefs _ => ?_⟩
    subst hprefs
    simpa [rankIn] using htie

theorem sortBy_pruneBefore_rises (prefs : List Word32) {m : SymMap} (h : symsRise m = true) :
    (sortBy (pruneBefore prefs) m).Pairwise fun a b => pruneKey prefs a < pruneKey prefs b := by
  refine sortBy_rises (pruneBefore_iff_key prefs) ?_
  refine (List.pairwise_map.1 (symsRise_iff_keys.1 h)).imp fun {a b} hlt heq => hlt.ne ?_
  simp only [pruneKey, toLex_inj, Prod.mk.injEq] at heq
  exact heq.2.2

/-- Pruning is the cut of the sorted map at the heap's capacity, put back in symbol order (R226). -/
theorem prune_perm_take (prefs : List Word32) {m : SymMap} (h : symsRise m = true) :
    (prune prefs m).Perm ((sortBy (pruneBefore prefs) m).take sc2HeapCapacity) := by
  have hsorted := sortBy_perm (pruneBefore prefs) m
  by_cases hlarge : sc2HeapCapacity < m.length
  · have hkept := (symsRise_nodup h).sublist (prune_sublist prefs m)
    have hcut := (hsorted.nodup_iff.2 (symsRise_nodup h)).sublist (List.take_sublist sc2HeapCapacity _)
    exact (List.perm_ext_iff_of_nodup hkept hcut).2 fun _ => mem_prune_of_large hlarge
  · have hall : (sortBy (pruneBefore prefs) m).length ≤ sc2HeapCapacity := by rw [hsorted.length_eq]; omega
    rw [prune, if_neg hlarge, List.take_of_length_le hall]
    exact hsorted.symm

/-- What the cut keeps of a list comes before what it drops. -/
theorem rel_of_mem_take_of_notMem {α : Type} {R : α → α → Prop} {l : List α} {n : Nat} {a b : α}
    (h : l.Pairwise R) (ha : a ∈ l.take n) (hb : b ∈ l) (hdropped : b ∉ l.take n) : R a b := by
  rw [← List.take_append_drop n l] at h hb
  exact (List.pairwise_append.1 h).2.2 a ha b ((List.mem_append.1 hb).resolve_left hdropped)

/-- Settles O35: the cut of a sorted list keeps what comes first. -/
theorem pruningKeepsTheMostFrequent : Obligations.PruningKeepsTheMostFrequent := by
  intro prefs m h
  have hcut := prune_perm_take prefs h
  have hsorted := sortBy_perm (pruneBefore prefs) m
  refine ⟨?length, prune_sublist prefs m, fun a ha b hb hdropped => ?frequent⟩
  case length => rw [hcut.length_eq, List.length_take, hsorted.length_eq]; rfl
  case frequent =>
    have hlt : pruneKey prefs a < pruneKey prefs b :=
      rel_of_mem_take_of_notMem (R := fun a b => pruneKey prefs a < pruneKey prefs b)
        (sortBy_pruneBefore_rises prefs h) (hcut.mem_iff.1 ha) (hsorted.mem_iff.2 hb) (mt hcut.mem_iff.2 hdropped)
    exact of_pruneKey_lt hlt

end Sys2Proof.Proofs
end

section
/-! PROOFS. SC2's code lengths (spec/45_sc2.md R227 to R231): the rounds of merges end in one tree of all symbols, the
lengths are the depths of its leaves, and a tree's depths satisfy the Kraft equality. Settles O36, O37. -/

namespace Sys2Proof.Proofs

open Sys2Proof.Machine Sys2Proof.Claims

/-! ### The leaves of a tree -/

/-- The symbols at the leaves of a tree, from left to right (R228). -/
def leafSyms : HuffTree → List Word32
  | .leaf s => [s]
  | .node l r => leafSyms l ++ leafSyms r

theorem leafSyms_length_pos (t : HuffTree) : 0 < (leafSyms t).length := by
  induction t with
  | leaf s => exact Nat.one_pos
  | node l r ihl _ => simp only [leafSyms, List.length_append]; omega

/-- The model's list of leaves with their depths answers a symbol's depth (R229). -/
theorem lookup_leafDepths (t : HuffTree) (d : Nat) (s : Word32) :
    (leafDepths t d).lookup s = (depthOf s t).map (d + ·) := by
  induction t generalizing d with
  | leaf x =>
    by_cases hx : x = s
    · simp [leafDepths, depthOf, hx]
    · simp [leafDepths, depthOf, hx, List.lookup_cons, beq_false_of_ne (Ne.symm hx)]
  | node l r ihl ihr =>
    simp only [leafDepths, List.lookup_append, ihl, ihr, depthOf]
    cases depthOf s l <;> simp [Function.comp_def, Nat.add_assoc, Nat.add_comm 1]

theorem depthOf_isSome_iff (s : Word32) (t : HuffTree) : (depthOf s t).isSome ↔ s ∈ leafSyms t := by
  induction t with
  | leaf x => by_cases hx : x = s <;> simp [depthOf, leafSyms, hx, Ne.symm]
  | node l r ihl ihr => simp [depthOf, leafSyms, ihl, ihr]

/-- The code length that a tree gives a symbol: the depth of its leaf (R229). -/
def codeLen (t : HuffTree) (s : Word32) : Nat := (depthOf s t).getD 0

theorem depthOf_eq_some_codeLen {t : HuffTree} {s : Word32} (h : s ∈ leafSyms t) :
    depthOf s t = some (codeLen t s) := by
  obtain ⟨d, hd⟩ := Option.isSome_iff_exists.1 ((depthOf_isSome_iff s t).2 h)
  rw [codeLen, hd, Option.getD_some]

theorem codeLen_leaf (s x : Word32) : codeLen (.leaf x) s = 0 := by
  by_cases hx : x = s <;> simp [codeLen, depthOf, hx]

theorem codeLen_node_left {l : HuffTree} (r : HuffTree) {s : Word32} (h : s ∈ leafSyms l) :
    codeLen (.node l r) s = codeLen l s + 1 := by
  rw [codeLen, depthOf, depthOf_eq_some_codeLen h]; rfl

theorem codeLen_node_right {l r : HuffTree} {s : Word32} (hl : s ∉ leafSyms l) (hr : s ∈ leafSyms r) :
    codeLen (.node l r) s = codeLen r s + 1 := by
  have hnone : depthOf s l = none := by rwa [← Option.not_isSome_iff_eq_none, depthOf_isSome_iff]
  rw [codeLen, depthOf, hnone, depthOf_eq_some_codeLen hr]; rfl

/-- A symbol below a node lies one deeper than below one of its children. -/
theorem codeLen_node_cases {l r : HuffTree} {s : Word32} (h : s ∈ leafSyms (.node l r)) :
    (s ∈ leafSyms l ∧ codeLen (.node l r) s = codeLen l s + 1) ∨
      (s ∈ leafSyms r ∧ codeLen (.node l r) s = codeLen r s + 1) := by
  by_cases hl : s ∈ leafSyms l
  · exact .inl ⟨hl, codeLen_node_left r hl⟩
  · have hr := (List.mem_append.1 h).resolve_left hl
    exact .inr ⟨hr, codeLen_node_right hl hr⟩

/-- Each edge down to a leaf passes by another leaf at the least, so a depth is below the number of leaves (R229). -/
theorem codeLen_lt_leaves {t : HuffTree} {s : Word32} (h : s ∈ leafSyms t) : codeLen t s < (leafSyms t).length := by
  induction t with
  | leaf x => rw [codeLen_leaf]; exact Nat.one_pos
  | node l r ihl ihr =>
    rw [leafSyms, List.length_append]
    have hlpos := leafSyms_length_pos l
    have hrpos := leafSyms_length_pos r
    rcases codeLen_node_cases h with ⟨hmem, hlen⟩ | ⟨hmem, hlen⟩
    · have := ihl hmem; omega
    · have := ihr hmem; omega

/-- In a tree of two or more leaves every leaf lies below the root (R229). -/
theorem codeLen_pos {t : HuffTree} {s : Word32} (h : s ∈ leafSyms t) (htwo : 2 ≤ (leafSyms t).length) :
    1 ≤ codeLen t s := by
  cases t with
  | leaf x => exact absurd htwo (Nat.not_succ_le_self 1)
  | node l r => rcases codeLen_node_cases h with ⟨_, hlen⟩ | ⟨_, hlen⟩ <;> omega

/-! ### The Kraft sum -/

/-- What a symbol's code takes of the Kraft sum (R231). -/
def kraftShare (t : HuffTree) (s : Word32) : ℚ := (1 / 2) ^ codeLen t s

/-- One level further down the shares are halved. -/
theorem sum_kraftShare_of_deeper {t u : HuffTree} {ss : List Word32} (h : ∀ s ∈ ss, codeLen t s = codeLen u s + 1) :
    (ss.map (kraftShare t)).sum = 1 / 2 * (ss.map (kraftShare u)).sum := by
  rw [← List.sum_map_mul_left]
  refine congrArg List.sum (List.map_congr_left fun s hs => ?_)
  rw [kraftShare, h s hs, pow_succ', kraftShare]

/-- The Kraft equality of a tree of different symbols (R231). -/
theorem sum_kraftShare_leafSyms {t : HuffTree} (h : (leafSyms t).Nodup) :
    ((leafSyms t).map (kraftShare t)).sum = 1 := by
  induction t with
  | leaf s => simp [leafSyms, kraftShare, codeLen_leaf]
  | node l r ihl ihr =>
    obtain ⟨hl, hr, hdisjoint⟩ := List.nodup_append'.1 h
    have hleft := sum_kraftShare_of_deeper (ss := leafSyms l) fun s hs => codeLen_node_left r hs
    have hright := sum_kraftShare_of_deeper (ss := leafSyms r) fun s hs =>
      codeLen_node_right (fun hsl => hdisjoint hsl hs) hs
    rw [leafSyms, List.map_append, List.sum_append, hleft, hright, ihl hl, ihr hr]
    norm_num

/-! ### The rounds of merges -/

/-- The symbols at the leaves of a heap's trees. -/
def heapSyms (heap : List HuffNode) : List Word32 := heap.flatMap fun x => leafSyms x.tree

/-- The parent of two nodes, with its serial number (R227, R228). -/
def parent (next : Nat) (a b : HuffNode) : HuffNode :=
  { f := a.f + b.f, seq := next, tree := .node a.tree b.tree }

theorem mergeRounds_step (prefs : List Nat) (rounds next : Nat) (a b : HuffNode) (rest : List HuffNode) :
    mergeRounds prefs (rounds + 1) next (a :: b :: rest) =
      mergeRounds prefs rounds (next + 1) (insertBy (nodeBefore prefs) (parent next a b) rest) := rfl

theorem mergeRounds_root (prefs : List Nat) (rounds next : Nat) (root : HuffNode) :
    mergeRounds prefs rounds next [root] = [root] := by
  cases rounds <;> rfl

/-- Merges lose no symbol and make none (R228). -/
theorem heapSyms_insert_parent (prefs : List Nat) (next : Nat) (a b : HuffNode) (rest : List HuffNode) :
    (heapSyms (insertBy (nodeBefore prefs) (parent next a b) rest)).Perm (heapSyms (a :: b :: rest)) := by
  refine ((insertBy_perm _ _ rest).flatMap_right _).trans (.of_eq ?_)
  simp [heapSyms, parent, leafSyms]

/-- As many rounds as there are nodes beside one leave one root, of all the heap's symbols, for every tie-break
(R228, R231). -/
theorem mergeRounds_eq_root (prefs : List Nat) {rounds next : Nat} {heap : List HuffNode} (hne : heap ≠ [])
    (hlen : heap.length ≤ rounds + 1) :
    ∃ root, mergeRounds prefs rounds next heap = [root] ∧ (leafSyms root.tree).Perm (heapSyms heap) := by
  induction rounds generalizing next heap with
  | zero =>
    match heap, hne, hlen with
    | [root], _, _ => exact ⟨root, rfl, .of_eq (by simp [heapSyms])⟩
  | succ rounds ih =>
    match heap, hne, hlen with
    | [root], _, _ => exact ⟨root, rfl, .of_eq (by simp [heapSyms])⟩
    | a :: b :: rest, _, hlen =>
      have hlength := (insertBy_perm (nodeBefore prefs) (parent next a b) rest).length_eq
      obtain ⟨root, hroot, hsyms⟩ := ih (next := next + 1)
        (List.ne_nil_of_length_eq_add_one hlength) (hlength.trans_le (Nat.le_of_succ_le_succ hlen))
      exact ⟨root, hroot, hsyms.trans (heapSyms_insert_parent prefs next a b rest)⟩

/-! ### The heap of the leaves -/

theorem heapSyms_leafNodes (m : SymMap) : heapSyms (leafNodes m) = m.map Prod.fst := by
  have hsyms : heapSyms (leafNodes m) = m.zipIdx.map (Prod.fst ∘ Prod.fst) := by
    simp [heapSyms, leafNodes, List.flatMap_map, leafSyms, ← List.map_eq_flatMap, Function.comp_def]
  rw [hsyms, ← List.map_map, List.zipIdx_map_fst]

theorem leafNodes_length (m : SymMap) : (leafNodes m).length = m.length := by simp [leafNodes]

/-- The leaves' serial numbers are 0 to m - 1 in order (R227). -/
theorem leafNodes_seqs (m : SymMap) : (leafNodes m).map HuffNode.seq = List.range m.length := by
  rw [List.range_eq_range', ← List.zipIdx_map_snd]
  simp [leafNodes, Function.comp_def]

/-- The root that the model's build leaves of a map (R228). -/
def IsHuffmanRoot (p : Params) (m : SymMap) (root : HuffNode) : Prop :=
  mergeRounds p.sc2HeapOrder m.length m.length (sortBy (nodeBefore p.sc2HeapOrder) (leafNodes m)) = [root]

/-- The build of a map that is not empty leaves one root, with the map's symbols at its leaves (R228). -/
theorem exists_isHuffmanRoot (p : Params) {m : SymMap} (h : 1 ≤ m.length) :
    ∃ root, IsHuffmanRoot p m root ∧ (leafSyms root.tree).Perm (m.map Prod.fst) := by
  have hsorted := sortBy_perm (nodeBefore p.sc2HeapOrder) (leafNodes m)
  have hlength := hsorted.length_eq.trans (leafNodes_length m)
  obtain ⟨root, hroot, hsyms⟩ := mergeRounds_eq_root p.sc2HeapOrder (rounds := m.length) (next := m.length)
    (List.ne_nil_of_length_pos (hlength ▸ h)) (by omega)
  exact ⟨root, hroot, hsyms.trans ((hsorted.flatMap_right _).trans (.of_eq (heapSyms_leafNodes m)))⟩

/-- With the default shortest length the lengths are the depths of the leaves (R229). -/
theorem huffmanLengths_of_root {p : Params} {m : SymMap} {root : HuffNode} (hmin : p.sc2MinCodeLen = 0)
    (h : IsHuffmanRoot p m root) : huffmanLengths p m = m.map fun e => (e.1, codeLen root.tree e.1) := by
  unfold IsHuffmanRoot at h
  simp [huffmanLengths, h, hmin, lookup_leafDepths, codeLen]

theorem mem_huffmanLengths_of_root {p : Params} {m : SymMap} {root : HuffNode} (hmin : p.sc2MinCodeLen = 0)
    (h : IsHuffmanRoot p m root) (hsyms : (leafSyms root.tree).Perm (m.map Prod.fst)) {e : Word32 × Nat}
    (he : e ∈ huffmanLengths p m) : e.1 ∈ leafSyms root.tree ∧ e.2 = codeLen root.tree e.1 := by
  rw [huffmanLengths_of_root hmin h] at he
  obtain ⟨e', he', rfl⟩ := List.mem_map.1 he
  exact ⟨hsyms.mem_iff.2 (List.mem_map.2 ⟨e', he', rfl⟩), rfl⟩

/-- Settles O36: the lengths are the depths in one tree of the map's symbols. -/
theorem huffmanLengthsSatisfyKraft : Obligations.HuffmanLengthsSatisfyKraft := by
  intro p m hmin hrise htwo
  obtain ⟨root, hroot, hsyms⟩ := exists_isHuffmanRoot p (m := m) (by omega)
  have hnodup : (m.map Prod.fst).Nodup :=
    (symsRise_iff_keys.1 hrise).imp fun hlt heq => hlt.ne (congrArg BitVec.toNat heq)
  calc ((huffmanLengths p m).map fun e => (1 / 2 : ℚ) ^ e.2).sum
      = ((m.map Prod.fst).map (kraftShare root.tree)).sum := by
        rw [huffmanLengths_of_root hmin hroot, List.map_map, List.map_map]; rfl
    _ = ((leafSyms root.tree).map (kraftShare root.tree)).sum := (hsyms.symm.map _).sum_eq
    _ = 1 := sum_kraftShare_leafSyms (hsyms.nodup_iff.2 hnodup)

/-! ### The default order of the heap -/

/-- The key of a heap node: frequency, then serial number (R227). -/
def nodeKey (x : HuffNode) : ℕ ×ₗ ℕ := toLex (x.f, x.seq)

theorem keyBefore_iff_key (a b : HuffNode) : keyBefore a b ↔ nodeKey a < nodeKey b := by
  simp only [nodeKey, Prod.Lex.toLex_lt_toLex, keyBefore]

theorem nodeBefore_nil_iff_key (a b : HuffNode) : nodeBefore [] a b = true ↔ nodeKey a < nodeKey b := by
  simp only [nodeBefore, nodeKey, Prod.Lex.toLex_lt_toLex, rankIn]
  by_cases hf : a.f = b.f <;> simp [hf]

theorem nodeKey_ne_of_seq_ne {a b : HuffNode} (h : a.seq ≠ b.seq) : nodeKey a ≠ nodeKey b := by
  simp only [nodeKey, ne_eq, toLex_inj, Prod.mk.injEq]
  exact fun heq => h heq.2

/-- What the rounds keep of a heap with the default order: its keys rise and its serial numbers are spent (R227). -/
def HeapSorted (next : Nat) (heap : List HuffNode) : Prop :=
  heap.Pairwise (fun a b => nodeKey a < nodeKey b) ∧ ∀ x ∈ heap, x.seq < next

theorem heapSorted_leaves (m : SymMap) : HeapSorted m.length (sortBy (nodeBefore []) (leafNodes m)) := by
  have hdiffer : (leafNodes m).Pairwise fun a b => a.seq ≠ b.seq :=
    List.pairwise_map.1 (leafNodes_seqs m ▸ List.nodup_range)
  refine ⟨sortBy_rises nodeBefore_nil_iff_key (hdiffer.imp nodeKey_ne_of_seq_ne), fun x hx => ?_⟩
  have hleaf : x ∈ leafNodes m := (sortBy_perm _ _).mem_iff.1 hx
  exact List.mem_range.1 (leafNodes_seqs m ▸ List.mem_map_of_mem hleaf)

theorem heapSorted_insert_parent {next : Nat} {a b : HuffNode} {rest : List HuffNode}
    (h : HeapSorted next (a :: b :: rest)) :
    HeapSorted (next + 1) (insertBy (nodeBefore []) (parent next a b) rest) := by
  obtain ⟨hrise, hseq⟩ := h
  have hspent : ∀ x ∈ rest, x.seq < next := fun x hx => hseq x (by simp [hx])
  refine ⟨insertBy_rises nodeBefore_nil_iff_key (fun x hx => ?new) hrise.of_cons.of_cons, fun x hx => ?seq⟩
  case new => exact nodeKey_ne_of_seq_ne (hspent x hx).ne'
  case seq =>
    rcases List.mem_cons.1 ((insertBy_perm _ _ rest).mem_iff.1 hx) with rfl | hx
    · exact Nat.lt_succ_self next
    · exact (hspent x hx).trans (Nat.lt_succ_self next)

/-- On a sorted heap the first two nodes are those of least key (R228). -/
theorem huffmanRound_of_sorted {next : Nat} {a b : HuffNode} {rest : List HuffNode}
    (h : HeapSorted next (a :: b :: rest)) :
    huffmanRound next (a :: b :: rest) (insertBy (nodeBefore []) (parent next a b) rest) := by
  obtain ⟨ha, hb⟩ := List.pairwise_cons.1 h.1
  exact ⟨a, b, rest, .refl _, (keyBefore_iff_key a b).2 (ha b List.mem_cons_self),
    fun x hx => (keyBefore_iff_key b x).2 ((List.pairwise_cons.1 hb).1 x hx), insertBy_perm _ _ rest⟩

/-- The model's rounds on a sorted heap are the rounds of R228; rounds past the last merge do nothing. -/
theorem mergesTo_of_mergeRounds {rounds fuel next : Nat} {heap : List HuffNode} {root : HuffNode}
    (hsorted : HeapSorted next heap) (hlen : heap.length = rounds + 1) (hfuel : rounds ≤ fuel)
    (h : mergeRounds [] fuel next heap = [root]) : mergesTo rounds next heap root := by
  induction rounds generalizing fuel next heap with
  | zero =>
    obtain ⟨x, rfl⟩ := List.length_eq_one_iff.1 hlen
    exact (mergeRounds_root [] fuel next x).symm.trans h
  | succ rounds ih =>
    match heap, fuel, hlen, hfuel with
    | a :: b :: rest, fuel + 1, hlen, hfuel =>
      have hlength := (insertBy_perm (nodeBefore []) (parent next a b) rest).length_eq
      exact ⟨_, huffmanRound_of_sorted hsorted, ih (heapSorted_insert_parent hsorted)
        (hlength.trans (Nat.succ.inj hlen)) (Nat.le_of_succ_le_succ hfuel) h⟩

/-- The rounds of R228 do not see how the heap is kept. -/
theorem mergesTo_of_perm {rounds next : Nat} {heap heap' : List HuffNode} {root : HuffNode} (hperm : heap.Perm heap')
    (h : mergesTo rounds next heap root) : mergesTo rounds next heap' root := by
  cases rounds with
  | zero => exact List.perm_singleton.1 (hperm.symm.trans (.of_eq h))
  | succ rounds =>
    obtain ⟨after, ⟨a, b, rest, hheap, hab, hrest, hafter⟩, hmore⟩ := h
    exact ⟨after, ⟨a, b, rest, hperm.symm.trans hheap, hab, hrest, hafter⟩, hmore⟩

/-- With the default order the build's root is the one that R228 builds from the leaves. -/
theorem mergesTo_of_isHuffmanRoot {p : Params} {m : SymMap} {root : HuffNode} (hm : 1 ≤ m.length)
    (horder : p.sc2HeapOrder = []) (h : IsHuffmanRoot p m root) :
    mergesTo (m.length - 1) m.length (leafNodes m) root := by
  have hperm := sortBy_perm (nodeBefore []) (leafNodes m)
  have hlength := hperm.length_eq.trans (leafNodes_length m)
  rw [IsHuffmanRoot, horder] at h
  exact mergesTo_of_perm hperm (mergesTo_of_mergeRounds (heapSorted_leaves m) (by omega) (Nat.sub_le _ _) h)

/-- Settles O37: keys, bounds and depths are read off the build's root. -/
theorem huffmanLengthBounds : Obligations.HuffmanLengthBounds := by
  intro p m hmin _
  rcases Nat.eq_zero_or_pos m.length with hnone | hsome
  · obtain rfl := List.length_eq_zero_iff.1 hnone
    exact ⟨rfl, by simp, by simp, by simp⟩
  obtain ⟨root, hroot, hsyms⟩ := exists_isHuffmanRoot p hsome
  have hleaves : (leafSyms root.tree).length = m.length := hsyms.length_eq.trans (List.length_map _)
  have hmem {e : Word32 × Nat} (he : e ∈ huffmanLengths p m) :
      e.1 ∈ leafSyms root.tree ∧ e.2 = codeLen root.tree e.1 := mem_huffmanLengths_of_root hmin hroot hsyms he
  have hlt {e : Word32 × Nat} (he : e ∈ huffmanLengths p m) : e.2 < m.length := by
    obtain ⟨hleaf, hlen⟩ := hmem he
    exact hlen ▸ hleaves ▸ codeLen_lt_leaves hleaf
  refine ⟨?keys, fun hone e he => ?alone, fun htwo e he => ⟨?least, ?most⟩,
    fun _ horder => ⟨root, ?rounds, fun e he => ?depth⟩⟩
  case keys => rw [huffmanLengths_of_root hmin hroot, List.map_map]; rfl
  case alone => have := hlt he; omega
  case least =>
    obtain ⟨hleaf, hlen⟩ := hmem he
    exact hlen ▸ codeLen_pos hleaf (hleaves ▸ htwo)
  case most => have := hlt he; omega
  case rounds => exact mergesTo_of_isHuffmanRoot hsome horder hroot
  case depth =>
    obtain ⟨hleaf, hlen⟩ := hmem he
    exact hlen ▸ depthOf_eq_some_codeLen hleaf

end Sys2Proof.Proofs
end

section
/-! PROOFS. The Delay Queue's verbs and its latency (spec/46_delay_queues.md R241 to R244): a pushed slot keeps its flit
until the read pointer comes to it. Settles O38, O39. -/

namespace Sys2Proof.Proofs

open Sys2Proof.Machine Sys2Proof.Claims

/-- Settles O38: neither verb has a fault of its own, and each writes its ring and, for POP, the delivery. -/
theorem dqPushAndPopComplete : Obligations.DqPushAndPopComplete := by
  intro s hrun
  refine ⟨fun head tail hasTxn => ?push, dqAfterPop s.cfg.dq s.dq, dqHead s.dq, ?pop, rfl, rfl, rfl, rfl⟩
  case push =>
    change execDqPush head tail hasTxn s = _
    exact runCommand_of_total hrun
  case pop =>
    change execDqPop s = _
    exact runCommand_of_total hrun

/-! ### Positions on a ring -/

/-- Fewer than cap steps from one position reach different slots. -/
theorem ringIndex_inj {cap start j k : Nat} (hj : j < cap) (hk : k < cap)
    (h : (start + j) % cap = (start + k) % cap) : j = k :=
  (Nat.ModEq.add_left_cancel' start h).eq_of_lt_of_lt hj hk

theorem ringIndex_advance (cap start k : Nat) : (advance cap start + k) % cap = (start + (k + 1)) % cap := by
  rw [advance, Nat.mod_add_mod, Nat.add_right_comm, Nat.add_assoc]

/-- A pointer that makes n steps from a slot does not use the slot w on its way. -/
def RingAvoids (cap start n w : Nat) : Prop := ∀ k < n, (start + k) % cap ≠ w

theorem RingAvoids.first {cap start n w : Nat} (h : RingAvoids cap start (n + 1) w) (hstart : start < cap) :
    start ≠ w := by
  simpa [Nat.mod_eq_of_lt hstart] using h 0 (Nat.succ_pos n)

theorem RingAvoids.rest {cap start n w : Nat} (h : RingAvoids cap start (n + 1) w) :
    RingAvoids cap (advance cap start) n w :=
  fun k hk => ringIndex_advance cap start k ▸ h (k + 1) (Nat.succ_lt_succ hk)

/-- The way to a slot ends before it. -/
theorem ringAvoids_target {cap start d : Nat} (hd : d < cap) : RingAvoids cap start d ((start + d) % cap) :=
  fun _ hk heq => hk.ne (ringIndex_inj (hk.trans hd) hd heq)

/-- From behind a slot, fewer than cap steps do not come round to it again. -/
theorem ringAvoids_behind {cap start n : Nat} (hstart : start < cap) (hn : n < cap) :
    RingAvoids cap (advance cap start) n start := by
  intro k hk heq
  rw [ringIndex_advance] at heq
  have hround : (start + (k + 1)) % cap = (start + 0) % cap := heq.trans (Nat.mod_eq_of_lt hstart).symm
  exact Nat.succ_ne_zero k (ringIndex_inj (by omega) (by omega) hround)

/-! ### What a sequence of uses leaves in a slot -/

theorem dqPush_slotAt_ne {p : DqParams} {q : Dq} {f : Slot} {w : Nat} (h : q.wr ≠ w) :
    (dqPush p q f).slots.getD w Slot.empty = q.slots.getD w Slot.empty := by
  simp [List.getD_eq_getElem?_getD, List.getElem?_set_ne h]

theorem dqPush_slotAt_wr {p : DqParams} {q : Dq} {f : Slot} (h : dqOk p q) :
    (dqPush p q f).slots.getD q.wr Slot.empty = f := by
  obtain ⟨hlen, _, hwr⟩ := h
  simp [List.getD_eq_getElem?_getD, List.getElem?_set_self (hlen ▸ hwr : q.wr < q.slots.length)]

/-- A pop clears its own slot at most (DQ_POP_CLEARS). -/
theorem dqAfterPop_slotAt_ne {p : DqParams} {q : Dq} {w : Nat} (h : q.rd ≠ w) :
    (dqAfterPop p q).slots.getD w Slot.empty = q.slots.getD w Slot.empty := by
  rw [dqAfterPop_slots]
  split
  · simp [List.getD_eq_getElem?_getD, List.getElem?_set_ne h]
  · rfl

/-- A slot that neither pointer uses keeps its flit. -/
theorem dqRun_slotAt {p : DqParams} {q : Dq} {uses : List (Option Slot)} {w : Nat} (h : dqOk p q)
    (hpops : RingAvoids p.cap q.rd (uses.filter Option.isNone).length w)
    (hpushes : RingAvoids p.cap q.wr (uses.filter Option.isSome).length w) :
    (dqRun p uses q).slots.getD w Slot.empty = q.slots.getD w Slot.empty := by
  induction uses generalizing q with
  | nil => rfl
  | cons use uses ih =>
    have ⟨_, hrd, hwr⟩ := h
    cases use with
    | some f => exact (ih (dqOk_push f h) hpops hpushes.rest).trans (dqPush_slotAt_ne (hpushes.first hwr))
    | none => exact (ih (dqOk_afterPop h) hpops.rest hpushes).trans (dqAfterPop_slotAt_ne (hpops.first hrd))

/-- Settles O39: the pops lead `rd` to the pushed slot, and until then neither pointer has used it. -/
theorem dqLatencyLaw : Obligations.DqLatencyLaw := by
  intro p q f uses h hpops hpushes
  have ⟨_, _, hwr⟩ := h
  have hok := dqOk_push f h
  have ⟨_, hrdEnd, _⟩ := dqOk_run uses hok
  have hoffset : dqOffset p q < p.cap := Nat.mod_lt _ (by omega)
  have hreach : (q.rd + dqOffset p q) % p.cap = q.wr :=
    Eq.trans (rd_add_dqOffset_modEq h) (Nat.mod_eq_of_lt hwr)
  have hrd : (dqRun p uses (dqPush p q f)).rd = q.wr :=
    ((dqRun_rd_modEq p uses (dqPush p q f)).trans (hpops ▸ rd_add_dqOffset_modEq h)).eq_of_lt_of_lt hrdEnd hwr
  have hkept : (dqRun p uses (dqPush p q f)).slots.getD q.wr Slot.empty =
      (dqPush p q f).slots.getD q.wr Slot.empty :=
    dqRun_slotAt hok (hpops ▸ hreach ▸ ringAvoids_target hoffset) (ringAvoids_behind hwr hpushes)
  unfold dqHead
  rw [hrd, hkept, dqPush_slotAt_wr h]
  rfl

end Sys2Proof.Proofs
end

section
/-! PROOFS. The Compressed Delay Queue (spec/46_delay_queues.md R252 to R257): its four verbs, and its ring as the list
of the entries that it holds, oldest first. Settles O41, O42. -/

namespace Sys2Proof.Proofs

open Sys2Proof.Machine Sys2Proof.Claims

/-! ### The four verbs -/

theorem cdqPush_of_room {p : CdqParams} {q : Cdq} (t : Txn) (size : Word32) (now : Word64) (h : q.count ≠ p.cap) :
    cdqPush p q t size now = .ok
      { slots := q.slots.set q.wr { txn := some t, size := size, pushCycle := now }
        rd := q.rd
        wr := (q.wr + 1) % p.cap
        count := q.count + 1 } := by
  rcases cdqPush_cases p q t size now with ⟨hfull, _⟩ | ⟨_, hpush⟩
  · exact absurd hfull h
  · exact hpush

theorem cdqPush_eq_error_iff {p : CdqParams} {q : Cdq} {t : Txn} {size : Word32} {now : Word64} :
    cdqPush p q t size now = .error .cdqFull ↔ q.count = p.cap := by
  rcases cdqPush_cases p q t size now with ⟨hfull, hpush⟩ | ⟨hroom, hpush⟩
  · simp [hpush, hfull]
  · simp [hpush, hroom]

theorem resOfBool_cdqFull (p : CdqParams) (q : Cdq) :
    resOfBool (cdqFull p q) = if q.count = p.cap then 1 else 0 := by
  simp [resOfBool, cdqFull]

/-- Settles O41, verb by verb, each by the operation on the ring that it runs. -/
theorem cdqVerbsComplete : Obligations.CdqVerbsComplete := by
  intro s hrun
  have ⟨hfault, hpresent⟩ := hrun
  refine ⟨fun size hroom => ?push, fun size hfull => ?pushFull, ⟨fun hdue => ?topDue, fun hearly => ?topEarly⟩,
    fun hpos => ?pop, fun hempty => ?popEmpty, ?full⟩
  case push =>
    change execCdqPush size s = _
    exact runCommand_of_ok hfault hpresent (bind_eq_ok.2 ⟨_, cdqPush_of_room _ _ _ hroom, rfl⟩)
  case pushFull =>
    change execCdqPush size s = _
    exact runCommand_of_error (f := .cdqFull) hfault hpresent (bind_eq_error.2 (.inl (cdqPush_eq_error_iff.2 hfull)))
  case topDue =>
    obtain ⟨hpos, helapsed⟩ := hdue
    have htop := cdqTop_eq_some.2 ⟨hpos, rfl, helapsed⟩
    change execCdqTop s = _
    exact runCommand_of_ok hfault hpresent (by rw [htop])
  case topEarly =>
    have htop : cdqTop s.cfg.cdq s.cdq s.opNow = none := if_neg hearly
    change execCdqTop s = _
    exact runCommand_of_ok hfault hpresent (by rw [htop])
  case pop =>
    change execCdqPop s = _
    rw [execCdqPop, runCommand_of_total hrun, cdqAfterPop_of_pos hpos]
    rfl
  case popEmpty =>
    change execCdqPop s = _
    rw [execCdqPop, runCommand_of_total hrun, cdqAfterPop_of_empty hempty]
  case full =>
    change execCdqFull s = _
    rw [execCdqFull, runCommand_of_total hrun, resOfBool_cdqFull]
    rfl

/-! ### The ring as a list of entries -/

theorem cdqEntries_length (p : CdqParams) (q : Cdq) : (cdqEntries p q).length = q.count := by
  simp [cdqEntries]

theorem cdqEntries_of_empty {p : CdqParams} {q : Cdq} (h : q.count = 0) : cdqEntries p q = [] := by
  simp [cdqEntries, h]

/-- The slot at `rd` is the oldest entry. -/
theorem cdqEntries_head? {p : CdqParams} {q : Cdq} (h : cdqOk p q) (hpos : 0 < q.count) :
    (cdqEntries p q).head? = some (q.slots.getD q.rd CSlot.empty) := by
  obtain ⟨_, hrd, _⟩ := h
  simp [cdqEntries, List.head?_range, hpos.ne', Nat.mod_eq_of_lt hrd]

/-- The write pointer is past the occupied slots, so a push leaves every entry and adds its own at the end (R252). -/
theorem cdqEntries_push {p : CdqParams} {q q' : Cdq} {t : Txn} {size : Word32} {now : Word64} (h : cdqOk p q)
    (hpush : cdqPush p q t size now = .ok q') :
    cdqEntries p q' = cdqEntries p q ++ [{ txn := some t, size := size, pushCycle := now }] := by
  obtain ⟨hlen, _, hcount, hwr, _⟩ := h
  rcases cdqPush_cases p q t size now with ⟨_, e⟩ | ⟨hroom, e⟩ <;> rw [e] at hpush <;> cases hpush
  have hin : q.wr < q.slots.length := by rw [hwr, hlen]; exact Nat.mod_lt _ (by omega)
  simp only [cdqEntries, List.range_succ, List.map_append, List.map_singleton, slotAt_set]
  have hother : RingAvoids p.cap q.rd q.count q.wr := hwr ▸ ringAvoids_target (by omega)
  congr 1
  · exact List.map_congr_left fun k hk => if_neg fun ⟨hsame, _⟩ => hother k (List.mem_range.1 hk) hsame.symm
  · rw [if_pos ⟨hwr, hin⟩]

/-- The read pointer moves past the oldest entry, and the cleared slot is no later entry's (R255). -/
theorem cdqEntries_afterPop {p : CdqParams} {q : Cdq} (h : cdqOk p q) :
    cdqEntries p (cdqAfterPop p q) = (cdqEntries p q).tail := by
  rcases Nat.eq_zero_or_pos q.count with hempty | hpos
  · rw [cdqAfterPop_of_empty hempty, cdqEntries_of_empty hempty]; rfl
  · obtain ⟨_, hrd, hcount, _, _⟩ := h
    rw [cdqAfterPop_of_pos hpos]
    obtain ⟨n, hn⟩ := Nat.exists_eq_add_one_of_ne_zero hpos.ne'
    simp only [cdqEntries, hn, Nat.add_sub_cancel, List.range_succ_eq_map, List.map_cons, List.map_map, List.tail_cons]
    refine List.map_congr_left fun k hk => ?_
    have hother : (advance p.cap q.rd + k) % p.cap ≠ q.rd :=
      ringAvoids_behind hrd (show n < p.cap by omega) k (List.mem_range.1 hk)
    rw [slotAt_set, if_neg fun ⟨hsame, _⟩ => hother hsame.symm]
    exact congrArg (q.slots.getD · CSlot.empty) (ringIndex_advance p.cap q.rd k)

/-- TOP shows the oldest entry once its delay has elapsed (R254). -/
theorem cdqTop_eq_head? {p : CdqParams} {q : Cdq} (h : cdqOk p q) (now : Word64) :
    cdqTop p q now =
      (cdqEntries p q).head?.filter fun c => decide (c.pushCycle.toNat + p.latency < now.toNat) := by
  rcases Nat.eq_zero_or_pos q.count with hempty | hpos
  · simp [cdqTop, cdqEntries_of_empty hempty, hempty]
  · simp [cdqTop, cdqEntries_head? h hpos, hpos, Option.filter]

/-- Settles O42: each operation on the ring is the list's, and the ring's invariant is kept. -/
theorem cdqIsAFifoOfEntries : Obligations.CdqIsAFifoOfEntries := by
  intro p q h
  refine ⟨fun t size now => ⟨?full, fun q' hpush => ⟨cdqOk_push h hpush, cdqEntries_push h hpush⟩⟩,
    ⟨cdqOk_afterPop h, cdqEntries_afterPop h⟩, cdqTop_eq_head? h⟩
  case full => rw [cdqEntries_length]; exact cdqPush_eq_error_iff

end Sys2Proof.Proofs
end

section
/-! PROOFS. The verbs of the links that take no step: PUSH, FULL, EMPTY, TOP and POP on LNK, MLDN and MLUP
(spec/47_oneway_link.md R266, R267, R276 to R278; spec/48_compressed_link.md R291 to R293; spec/49_memory_link.md R331).
Settles O12, O43, O44, O45. -/

namespace Sys2Proof.Proofs

open Sys2Proof.Machine Sys2Proof.Claims

/-! ### A verb whose rule first computes what can fault, then writes its result -/

section Verb

variable {α : Type} {u : UnitId} {x : State → Except FaultCode α} {f : State → α → State} {s : State}

theorem runCommand_of_bind_ok {a : α} (hrun : runs u s) (hx : x s = .ok a) :
    runCommand u (fun s => x s >>= fun a => .ok (f s a)) s = .next (f s a) := by
  obtain ⟨hfault, hpresent⟩ := hrun
  exact runCommand_of_ok hfault hpresent (bind_eq_ok.2 ⟨a, hx, rfl⟩)

theorem runCommand_of_bind_error (g : FaultCode) (hrun : runs u s) (hx : x s = .error g) :
    runCommand u (fun s => x s >>= fun a => .ok (f s a)) s = .next (afterFault g.code s) := by
  obtain ⟨hfault, hpresent⟩ := hrun
  exact runCommand_of_error hfault hpresent (bind_eq_error.2 (.inl hx))

end Verb

/-! ### PUSH -/

theorem badType_eq_true_iff {t : Txn} : t.badType = true ↔ 3 < t.type.toNat := decide_eq_true_iff

theorem badType_eq_false_iff {t : Txn} : t.badType = false ↔ t.type.toNat ≤ 3 := by
  rw [← Bool.not_eq_true, badType_eq_true_iff, Nat.not_lt]

theorem long_eq_true_iff {t : Txn} : t.long = true ↔ t.type = 1 ∨ t.type = 2 := by
  simp [Txn.long]

section Push

variable {lp : LinkParams} {l : Link} {src : Nat} {t : Txn}

theorem linkPush_of_badType (hsrc : src < lp.sources) (hat : lp.badTypeAt = .push) (htype : 3 < t.type.toNat) :
    linkPush lp l src t = .error .badType := by
  simp [linkPush, hsrc, hat, badType_eq_true_iff.2 htype]

theorem linkPush_of_badDst (hsrc : src < lp.sources) (htype : t.type.toNat ≤ 3) (hdst : lp.dests ≤ t.dst) :
    linkPush lp l src t = .error .badDst := by
  simp [linkPush, hsrc, badType_eq_false_iff.2 htype, hdst]

theorem linkPush_of_full (hsrc : src < lp.sources) (htype : t.type.toNat ≤ 3) (hdst : t.dst < lp.dests)
    (hfull : (queueAt (readyOf lp l t) src).length = lp.readyDepth) : linkPush lp l src t = .error .readyFull := by
  simp [linkPush, hsrc, badType_eq_false_iff.2 htype, Nat.not_le.2 hdst, hfull]

theorem linkPush_of_room (hsrc : src < lp.sources) (htype : t.type.toNat ≤ 3) (hdst : t.dst < lp.dests)
    (hroom : (queueAt (readyOf lp l t) src).length ≠ lp.readyDepth) :
    linkPush lp l src t = .ok (enqReady lp l src t) := by
  simp [linkPush, hsrc, badType_eq_false_iff.2 htype, Nat.not_le.2 hdst, hroom]

end Push

/-- Settles O12: the tests stand in this order in PUSH, which is the same on the three links. -/
theorem pushFaultsInTheOrderOfItsTests : Obligations.PushFaultsInTheOrderOfItsTests := by
  intro s k
  simp only [exec]
  refine ⟨?lnk, ?dn, ?up⟩
  case lnk | dn | up =>
    exact fun hrun hat hk =>
      ⟨fun htype => runCommand_of_bind_error .badType hrun (linkPush_of_badType hk hat htype),
        fun htype hdst => runCommand_of_bind_error .badDst hrun (linkPush_of_badDst hk htype hdst),
        fun htype hdst hfull => runCommand_of_bind_error .readyFull hrun (linkPush_of_full hk htype hdst hfull)⟩

/-- Settles O43: past its tests PUSH appends to the queue that the link's kind and the type name. -/
theorem pushCompletesOnEveryLink : Obligations.PushCompletesOnEveryLink := by
  intro s k htype
  simp only [exec]
  refine ⟨?lnk, ?dn, ?up, fun lp l t => ⟨fun hkind => ?plain, fun hkind hlong => ?long, fun hkind hshort => ?short⟩⟩
  case lnk | dn | up =>
    exact fun hrun hk hdst hroom => runCommand_of_bind_ok hrun (linkPush_of_room hk htype hdst hroom)
  case plain => simp [enqReady, hkind, enqAt]
  case long => simp [enqReady, hkind, enqAt, long_eq_true_iff.2 hlong]
  case short => simp [enqReady, hkind, enqAt, mt long_eq_true_iff.1 hshort]

/-! ### FULL -/

theorem sourceIndex_of_lt {lp : LinkParams} {k : Nat} (h : k < lp.sources) : sourceIndex lp k = .ok () := if_pos h

theorem destIndex_of_lt {lp : LinkParams} {d : Nat} (h : d < lp.dests) : destIndex lp d = .ok () := if_pos h

/-- Settles O44: FULL tests its index alone, and its result is that of a comparison of lengths. -/
theorem fullTellsWhetherAReadyQueueIsFull : Obligations.FullTellsWhetherAReadyQueueIsFull := by
  intro s k
  simp only [exec]
  refine ⟨?lnk, ?dn, ?up, fun lp l => ⟨fun hkind => ?plain, fun hkind => ?compressed⟩⟩
  case lnk | dn | up => exact fun hrun hk => runCommand_of_bind_ok hrun (sourceIndex_of_lt hk)
  case plain => simp [linkFull, hkind]
  case compressed => simp [linkFull, hkind]

/-! ### EMPTY, TOP and POP -/

theorem resOfBool_linkEmpty (l : Link) (d : Nat) :
    resOfBool (linkEmpty l d) = if queueAt l.done d = [] then 1 else 0 := by
  simp [resOfBool, linkEmpty]

/-- Settles O45: each of the three verbs tests its index alone, and acts on the queue of that index. -/
theorem emptyTopAndPopActOnTheCompletedQueue : Obligations.EmptyTopAndPopActOnTheCompletedQueue := by
  intro s d
  simp only [exec, ← resOfBool_linkEmpty]
  refine ⟨?lnk, ?dn, ?up⟩
  case lnk | dn | up =>
    exact fun hrun hd => ⟨runCommand_of_bind_ok hrun (destIndex_of_lt hd),
      runCommand_of_bind_ok hrun (destIndex_of_lt hd), runCommand_of_bind_ok hrun (destIndex_of_lt hd)⟩

end Sys2Proof.Proofs
end

section
/-! PROOFS. The fault register (spec/60_exceptions.md R347 to R351, R363): what a command does to it, who may change a
latched code, and the command that reads it. Settles O7, O8, O9, O14. -/

namespace Sys2Proof.Proofs

open Sys2Proof.Machine Sys2Proof.Claims

/-! ### Refusal -/

theorem illegalCommand_of_latched {s : State} (h : s.fault ≠ 0) : illegalCommand s = .next (refuse s) := if_pos h

/-- Settles O7: every other command is of a unit whose discipline refuses it, and so is a word that names none. -/
theorem faultedBlockRefusesCommands : Obligations.FaultedBlockRefusesCommands := by
  refine fun s hfault => ⟨fun i hreset hrdfault => ?command, fun c rest hin hword => ?word⟩
  case command =>
    have hi : unitOf i ≠ .sys := by
      cases i with
      | sysReset => exact absurd rfl hreset
      | sysRdfault => exact absurd rfl hrdfault
      | _ => simp [unitOf]
    obtain ⟨body, hexec⟩ := exec_eq_runCommand s hi
    rw [hexec]
    exact runCommand_of_fault hfault
  case word =>
    obtain ⟨r, hreject⟩ := decode_of_notMem hword
    rw [step_of_command hin]
    exact (runPort_of_reject hreject).trans (illegalCommand_of_latched hfault)

/-! ### What a command does to FAULT -/

/-- The command leaves FAULT as it was, or it raises a fault where there was none (R347, R348). -/
def KeepsFaultOrRaises (s t : State) : Prop := t.fault = s.fault ∨ (s.fault = 0 ∧ ∃ f, t = raise f s)

/-- A refusal keeps FAULT, so only the verb's own rule could write it without raising. -/
theorem runCommand_fault {u : UnitId} {body : State → Except FaultCode State} {s t : State}
    (hbody : body s = .ok t → t.fault = s.fault) (h : runCommand u body s = .next t) : KeepsFaultOrRaises s t := by
  rcases runCommand_cases u body s with ⟨_, e⟩ | ⟨hnone, _, e⟩ | ⟨hnone, _, ⟨t', hb, e⟩ | ⟨f, _, e⟩⟩ <;>
    rw [e] at h <;> cases h
  · exact .inl rfl
  · exact .inr ⟨hnone, .badCmd, rfl⟩
  · exact .inl (hbody hb)
  · exact .inr ⟨hnone, f, rfl⟩

/-- A verb whose rule has no fault of its own. -/
theorem runCommand_total_fault {u : UnitId} {f : State → State} {s t : State} (hf : (f s).fault = s.fault)
    (h : runCommand u (fun s => .ok (f s)) s = .next t) : KeepsFaultOrRaises s t :=
  runCommand_fault (fun hb => by cases hb; exact hf) h

/-- A verb whose rule first computes what can fault, then writes its result. -/
theorem runCommand_bind_fault {α : Type} {u : UnitId} {x : State → Except FaultCode α} {f : State → α → State}
    {s t : State} (hf : ∀ a, (f s a).fault = s.fault)
    (h : runCommand u (fun s => x s >>= fun a => .ok (f s a)) s = .next t) : KeepsFaultOrRaises s t :=
  runCommand_fault (fun hb => by obtain ⟨a, _, ha⟩ := bind_eq_ok.1 hb; cases ha; exact hf a) h

theorem execCdqTop_fault {s t : State} (h : execCdqTop s = .next t) : KeepsFaultOrRaises s t :=
  runCommand_fault (fun hb => by
    cases hc : cdqTop s.cfg.cdq s.cdq s.opNow <;> simp only [hc] at hb <;> cases hb <;> rfl) h

theorem exec_fault {i : Instr} {s t : State} (hi : i ≠ .sysReset) (h : exec i s = .next t) :
    KeepsFaultOrRaises s t := by
  unfold exec at h
  match i with
  | .sysReset => exact absurd rfl hi
  | .sysRdfault => cases h; exact .inl rfl
  | .mpcCompress _ | .bdiCompress _ | .fpcCompress _ | .bpcCompress _ | .cpackCompress _ | .sc2Compress _
  | .engCompress _ | .cdqPush _
  | .lnkPush _ | .lnkFull _ | .lnkStep _ | .lnkEmpty _ | .lnkTop _ | .lnkPop _
  | .mldnPush _ | .mldnFull _ | .mldnStep | .mldnEmpty _ | .mldnTop _ | .mldnPop _
  | .mlupPush _ | .mlupFull _ | .mlupStep | .mlupEmpty _ | .mlupTop _ | .mlupPop _ =>
    exact runCommand_bind_fault (fun _ => rfl) h
  | .mpcTotu | .mpcTotc | .bdiTotu | .bdiTotc | .bdiRdstate | .fpcTotu | .fpcTotc | .bpcTotu | .bpcTotc
  | .cpackTotu | .cpackTotc | .sc2Totu | .sc2Totc | .engTotu | .engTotc
  | .dqPush _ _ _ | .dqPop | .cdqPop | .cdqFull => exact runCommand_total_fault rfl h
  | .cdqTop => exact execCdqTop_fault h

/-- Settles O8: a fault latched by the command is one that it raised, on the state before it. -/
theorem faultingCommandsChangeNothingElse : Obligations.FaultingCommandsChangeNothingElse := by
  intro i s t hi hnone hexec hlatched
  rcases exec_fault hi hexec with hkept | ⟨_, f, rfl⟩
  · exact absurd (hkept.trans hnone) hlatched
  · exact ⟨raise_eq f s, f.code_le_eight⟩

/-- While a fault is latched only SYS.RESET changes it (R347). -/
theorem exec_keeps_latched {i : Instr} {s t : State} (hlatched : s.fault ≠ 0) (hi : i ≠ .sysReset)
    (h : exec i s = .next t) : t.fault = s.fault := by
  rcases exec_fault hi h with hkept | ⟨hnone, _⟩
  · exact hkept
  · exact absurd hnone hlatched

/-- While a fault is latched a word on the port changes it only as SYS.RESET: one that names no command is refused. -/
theorem runPort_keeps_latched {s t : State} (hlatched : s.fault ≠ 0) (hcmd : decode s.cmd ≠ .ok .sysReset)
    (h : runPort s = .next t) : t.fault = s.fault := by
  cases hdec : decode s.cmd with
  | ok i =>
    rw [runPort_of_decode hdec] at h
    exact exec_keeps_latched hlatched (fun hi => hcmd (hi ▸ hdec)) h
  | error r =>
    rw [runPort_of_reject hdec, illegalCommand_of_latched hlatched] at h
    cases h
    rfl

/-- Settles O9: with a fault latched, waiting keeps it, and so does every command but SYS.RESET. -/
theorem onlyResetClearsAFault : Obligations.OnlyResetClearsAFault := by
  intro s t hlatched hstep hchanged
  match hin : s.inbox with
  | [] =>
    rw [step_of_idle hin] at hstep
    cases hstep
    exact absurd rfl hchanged
  | .resetPin :: _ => exact .inl rfl
  | .command c :: rest =>
    rw [step_of_command hin] at hstep
    have hkeeps := runPort_keeps_latched (s := State.present { s with inbox := rest } c) (t := t) hlatched
    exact .inr ⟨c, rfl, of_not_not fun hcmd => hchanged (hkeeps hcmd hstep)⟩

/-! ### SYS.RDFAULT -/

theorem execSysRdfault_eq (s : State) :
    execSysRdfault s = .next { s with res := BitVec.ofNat 32 s.fault.toNat } := by
  rw [BitVec.ofNat_toNat]
  rfl

/-- Settles O14: the verb reads FAULT without the discipline of the units, its word is the row's, and the code of a byte
count of 6 is F_BADLEN's. -/
theorem rdfaultReadsTheFaultRegister : Obligations.RdfaultReadsTheFaultRegister := by
  refine ⟨execSysRdfault_eq, fun w hunit hverb => ?word, fun s t u hrun hcompress hread => ?badLen⟩
  case word => simp only [decode, hunit, hverb]
  case badLen =>
    obtain ⟨_, _, _, _, hcpack, _⟩ := unadmittedByteCountsRaiseBadLen s 6
    rw [hcpack hrun (.inr (.inl (by decide)))] at hcompress
    cases hcompress
    cases hread
    rfl

end Sys2Proof.Proofs
end

section
/-! PROOFS. Reset (spec/70_reset_and_hazards.md R380 to R384): the causes of F_CONFIG one by one (spec/60_exceptions.md
R353; spec/40_mpc.md R110) against the test that reset makes, the reset values, and who resets. Settles O5, O13, O60. -/

namespace Sys2Proof.Proofs

open Sys2Proof.Machine Sys2Proof.Claims

/-! ### The scan of a general module -/

/-- What the test of a scan gathers: bit j is set when some entry's code is j. -/
theorem scanMask_testBit (entries : List (Nat × Nat)) (acc j : Nat) :
    (entries.foldl (fun acc e => acc ||| 2 ^ scanCode e) acc).testBit j = true ↔
      acc.testBit j = true ∨ ∃ e ∈ entries, scanCode e = j := by
  induction entries generalizing acc with
  | nil => simp
  | cons e entries ih =>
    simp [ih, Nat.testBit_or, Nat.testBit_two_pow, or_assoc]

/-- All 256 bits are gathered when the entries, which are in range, meet every target (R110). -/
theorem scanMask_full_iff {entries : List (Nat × Nat)} (hrange : ∀ e ∈ entries, e.1 < 8 ∧ e.2 < 32) :
    entries.foldl (fun acc e => acc ||| 2 ^ scanCode e) 0 = 2 ^ 256 - 1 ↔
      ∀ k < 8, ∀ i < 32, (k, i) ∈ entries := by
  have hbits : entries.foldl (fun acc e => acc ||| 2 ^ scanCode e) 0 = 2 ^ 256 - 1 ↔
      ∀ j, (∃ e ∈ entries, scanCode e = j) ↔ j < 256 := by
    refine Iff.trans ⟨fun h j => congrArg (·.testBit j) h, Nat.eq_of_testBit_eq⟩ (forall_congr' fun j => ?_)
    rw [Bool.eq_iff_iff, scanMask_testBit, Nat.testBit_two_pow_sub_one, decide_eq_true_iff]
    simp
  rw [hbits]
  constructor
  · intro h k hk i hi
    obtain ⟨⟨k', i'⟩, he, hcode⟩ := (h (32 * k + i)).2 (by omega)
    have hin := hrange _ he
    simp only [scanCode] at hcode hin
    obtain ⟨rfl, rfl⟩ : k' = k ∧ i' = i := by omega
    exact he
  · refine fun h j => ⟨?_, fun hj => ⟨_, h (j / 32) (by omega) (j % 32) (by omega), Nat.div_add_mod j 32⟩⟩
    rintro ⟨e, he, rfl⟩
    have hin := hrange e he
    simp only [scanCode]
    omega

/-- 256 entries that meet all 256 targets meet each once. -/
theorem scan_nodup {entries : List (Nat × Nat)} (hlen : entries.length = 256)
    (hall : ∀ k < 8, ∀ i < 32, (k, i) ∈ entries) : entries.Nodup := by
  have hnodup : (List.range 8 ×ˢ List.range 32).Nodup := List.nodup_range.product List.nodup_range
  have hsub : List.range 8 ×ˢ List.range 32 ⊆ entries := by
    rintro ⟨k, i⟩ he
    obtain ⟨hk, hi⟩ := List.mem_product.1 he
    exact hall k (List.mem_range.1 hk) i (List.mem_range.1 hi)
  have hperm := (hnodup.subperm hsub).perm_of_length_le (by simp [hlen, List.length_product])
  exact hperm.nodup_iff.1 hnodup

theorem scanOk_iff (p : Params) (scan : List (List (Nat × Nat))) :
    scanOk p.mpcRows p.mpcCols scan = true ↔ validScan p scan := by
  simp only [scanOk, validScan, Bool.and_eq_true, beq_iff_eq, List.all_eq_true, decide_eq_true_iff, and_assoc]
  refine and_congr_right fun _ => and_congr_right fun _ => and_congr_right fun hlen => and_congr_right fun hrange => ?_
  rw [scanMask_full_iff hrange]
  exact ⟨fun hall => ⟨scan_nodup hlen hall, hall⟩, fun h => h.2⟩

/-! ### The pipeline description -/

theorem predictorOk_iff (pred : Predictor) : predictorOk pred = true ↔ validPredictor pred := by
  cases pred with
  | weightBase _ | consecutiveBase | unrecognised => simp [predictorOk, validPredictor]
  | oneBase root => simp [predictorOk, validPredictor]
  | diffBase base off =>
    simp only [predictorOk, validPredictor, Bool.and_eq_true, beq_iff_eq, List.all_eq_true, decide_eq_true_iff,
      and_assoc]
    refine and_congr_right fun _ => and_congr_right fun _ => and_congr_left fun _ => ?_
    refine ⟨fun h j hj => of_decide_eq_true (h _ hj), fun h b hb => ?_⟩
    cases b with
    | none => rfl
    | some j => exact decide_eq_true (h j hb)

theorem isPredModule_iff {m : MpcModule} : isPredModule m = true ↔ ∃ g, m.kind = .predComp g := by
  unfold isPredModule
  cases m.kind <;> simp

theorem isPredModule_eq_false_iff {m : MpcModule} (h : m.kind ≠ .unrecognised) :
    isPredModule m = false ↔ m.kind = .allZero ∨ m.kind = .allWordSame := by
  unfold isPredModule
  cases hk : m.kind <;> simp_all

theorem moduleOk_iff (p : Params) (m : MpcModule) :
    moduleOk p.mpcRows p.mpcCols m = true ↔ m.kind ≠ .unrecognised ∧
      ∀ g, m.kind = .predComp g →
        validPredictor g.pred ∧ validScan p g.scan ∧ g.bitplaneKnown = true ∧ g.patternKnown = true := by
  unfold moduleOk
  cases m.kind with
  | allZero | allWordSame | unrecognised => simp
  | predComp g => simp [predictorOk_iff, scanOk_iff, and_assoc]

/-- The order that the test asks for: after a general module only general ones. -/
theorem fastFirst_iff_pairwise (ms : List MpcModule) :
    fastFirst ms = true ↔ ms.Pairwise fun a b => isPredModule a = true → isPredModule b = true := by
  induction ms with
  | nil => simp [fastFirst]
  | cons m ms ih =>
    rw [fastFirst, List.pairwise_cons]
    cases hm : isPredModule m with
    | false => simpa using ih
    | true =>
      have hrest : (∀ b ∈ ms, isPredModule b = true) →
          ms.Pairwise fun a b => isPredModule a = true → isPredModule b = true :=
        fun h => List.pairwise_iff_forall_sublist.2 fun hsub _ => h _ (hsub.subset (by simp))
      simpa using hrest

/-- With every kind recognised, that is the order of R110: a fast-path module stands before every general one. -/
theorem fastFirst_iff {ms : List MpcModule} (hknown : ∀ m ∈ ms, m.kind ≠ .unrecognised) :
    fastFirst ms = true ↔
      ∀ (i j : Nat) (m n : MpcModule) (g : PredComp), ms[i]? = some m → ms[j]? = some n →
        m.kind = .predComp g → n.kind = .allZero ∨ n.kind = .allWordSame → j < i := by
  rw [fastFirst_iff_pairwise, List.pairwise_iff_getElem]
  constructor
  · intro h i j m n g hm hn hpred hfast
    obtain ⟨hi, rfl⟩ := List.getElem?_eq_some_iff.1 hm
    obtain ⟨hj, rfl⟩ := List.getElem?_eq_some_iff.1 hn
    have hnot := (isPredModule_eq_false_iff (hknown _ (List.getElem_mem hj))).2 hfast
    have his := isPredModule_iff.2 ⟨g, hpred⟩
    by_contra hle
    rcases Nat.lt_or_eq_of_le (Nat.not_lt.1 hle) with hlt | rfl
    · simp [h i j hi hj hlt his] at hnot
    · simp [his] at hnot
  · intro h i j hi hj hlt his
    obtain ⟨g, hpred⟩ := isPredModule_iff.1 his
    by_contra hnot
    have hfast := (isPredModule_eq_false_iff (hknown _ (List.getElem_mem hj))).1 (by simpa using hnot)
    have := h i j _ _ g (List.getElem?_eq_getElem hi) (List.getElem?_eq_getElem hj) hpred hfast
    omega

/-- The test of the pipeline description is R110's list of conditions. -/
theorem mpcCfgOk_iff (p : Params) : mpcCfgOk p.mpcRows p.mpcCols p.mpc = true ↔ validMpcCfg p := by
  simp only [mpcCfgOk, validMpcCfg, Bool.and_eq_true, decide_eq_true_iff, List.countP_eq_length_filter, List.any_eq_true,
    List.all_eq_true, isPredModule_iff, moduleOk_iff, and_assoc]
  refine and_congr_right fun _ => and_congr_right fun _ => and_congr_right fun _ => ?_
  refine and_congr_left fun ⟨_, _, hmodules⟩ => fastFirst_iff fun m hm => ?_
  exact (hmodules m hm).1

/-! ### The causes of F_CONFIG -/

theorem dqParamsOk_iff (d : DqParams) : dqParamsOk d = true ↔ ¬dqCause d := by
  rw [dqParamsOk, decide_eq_true_iff, dqCause]
  omega

theorem cdqParamsOk_iff (d : CdqParams) : cdqParamsOk d = true ↔ ¬d.size < 1 := by
  rw [cdqParamsOk, decide_eq_true_iff, Nat.not_lt]

theorem linkParamsOk_iff (lp : LinkParams) : linkParamsOk lp = true ↔ ¬linkCause lp := by
  have hkind : lp.kind = .plain ↔ ¬lp.kind = .compressed := by cases lp.kind <;> simp
  cases hdone : lp.doneDepth with
  | none | some d =>
    simp only [linkParamsOk, linkCause, Bool.and_eq_true, Bool.or_eq_true, decide_eq_true_iff, beq_iff_eq,
      dqParamsOk_iff, cdqParamsOk_iff, hdone, hkind, not_or, not_and, and_assoc, Nat.not_lt, ← imp_iff_not_or]
    simp [Nat.one_le_iff_ne_zero]

/-- A condition on a part is tested where the part is there (log 10). -/
theorem tested_iff {part test : Bool} : (!part || test) = true ↔ ¬(part = true ∧ ¬test = true) := by
  cases part <;> simp

/-- Reset finds a configuration valid exactly when no cause of R353 holds. -/
theorem configOk_iff (p : Params) : configOk p = true ↔ ¬configCause p := by
  have halg : p.alg.isSome = true ↔ ¬p.alg = none := Option.isSome_iff_ne_none
  have hmpc : instanceHasMpc p = true ↔ p.has .mpc = true ∨ p.alg = some .mpc := by simp [instanceHasMpc]
  simp only [configOk, configCause, Bool.and_eq_true, halg, tested_iff, hmpc, not_or, and_assoc,
    mpcCfgOk_iff, dqParamsOk_iff, cdqParamsOk_iff, linkParamsOk_iff, not_not]

/-! ### The reset values -/

theorem resetFault_of_cause {p : Params} (h : configCause p) : resetFault p = 8 :=
  if_neg fun hok => (configOk_iff p).1 hok h

theorem resetFault_of_noCause {p : Params} (h : ¬configCause p) : resetFault p = 0 := if_pos ((configOk_iff p).2 h)

theorem resetSc2_phase (p : Params) :
    (resetSc2 p).phase = if 0 < p.sc2WarmupCalls then .sampling else .steady := by
  rcases Nat.eq_zero_or_pos p.sc2WarmupCalls with hzero | hpos
  · simp [resetSc2, hzero]
  · simp [resetSc2, hpos, Nat.pos_iff_ne_zero.1 hpos]

/-- Settles O13, value by value of the state that reset writes. -/
theorem sysResetSetsEveryResetValue : Obligations.SysResetSetsEveryResetValue := by
  intro s
  refine ⟨s.reinit, rfl, resetFault_of_cause, resetFault_of_noCause, rfl, rfl, rfl, rfl, ?totals, rfl, rfl, ?dicts, ?sc2s,
    ?dqs, ?cdqs, ?links, rfl, rfl, rfl, rfl, rfl, rfl, rfl, rfl, rfl⟩
  case totals => simp [resetEngine, resetTotals]
  case dicts => simp [resetEngine, resetDict]
  case sc2s =>
    have hsc2 : (resetSc2 s.cfg).calls = 0 ∧ (resetSc2 s.cfg).freq = [] ∧ (resetSc2 s.cfg).codelen = [] ∧
        (resetSc2 s.cfg).phase = if 0 < s.cfg.sc2WarmupCalls then .sampling else .steady :=
      ⟨rfl, rfl, rfl, resetSc2_phase s.cfg⟩
    simpa [resetEngine] using hsc2
  case dqs => simp [resetDq, DqParams.cap, Slot.empty, Params.dnLink, Params.upLink]
  case cdqs => simp [resetCdq, CdqParams.cap, CSlot.empty, Params.dnLink, Params.upLink]
  case links => simp [Params.dnLink, Params.upLink]

/-! ### Who resets -/

/-- Settles O5: the pin writes what the command writes, and with no event the state stays. -/
theorem resetPinActsAsSysResetAndTheBlockWaits : Obligations.ResetPinActsAsSysResetAndTheBlockWaits :=
  ⟨fun _ _ hin => step_of_resetPin hin, fun _ hin => step_of_idle hin⟩

/-- Settles O60: reset meets the invariant whatever the parameters. -/
theorem resetIsWellFormed : Obligations.ResetIsWellFormed := ⟨resetFor_wf exampleParams, resetFor_wf⟩

end Sys2Proof.Proofs
end

section
/-! PROOFS. The choice of the next packet: the round-robin search (spec/47_oneway_link.md R273; spec/48_compressed_link.md
R304), the plain link's choice (47 R268 to R270), the down and the up link's (48 R302, R303), and what a packet pays for its
flits after a pad (48 R300, R301). Settles O49, O51, O52, O53. -/

namespace Sys2Proof.Proofs

open Sys2Proof.Machine Sys2Proof.Claims

/-! ### The round-robin search -/

/-- From any cursor the search comes to every source. -/
theorem exists_turn_of_source {sources s : Nat} (start : Nat) (h : s < sources) :
    ∃ k < sources, (start + k) % sources = s := by
  refine ⟨(s + (sources - start % sources)) % sources, Nat.mod_lt _ (by omega), ?_⟩
  have hturns : start + (s + (sources - start % sources)) = s + sources * (start / sources + 1) := by
    have hsplit := Nat.div_add_mod start sources
    have hlt := Nat.mod_lt start (by omega : 0 < sources)
    rw [Nat.mul_add]
    omega
  rw [Nat.add_mod_mod, hturns, Nat.add_mul_mod_self_left, Nat.mod_eq_of_lt h]

theorem nextSource_eq_some_iff {lp : LinkParams} {rr s : Nat} {qs : List (List Txn)} :
    nextSource lp rr qs = some s ↔ firstReady lp rr qs s := by
  simp only [nextSource, searchOrder, List.find?_map, Option.map_eq_some_iff, List.find?_range_eq_some, Function.comp,
    List.mem_range, Bool.not_eq_true', Bool.not_eq_false', List.isEmpty_iff, List.isEmpty_eq_false_iff, firstReady]
  constructor
  · rintro ⟨k, ⟨hready, hk, hbefore⟩, rfl⟩
    exact ⟨k, hk, rfl, hready, hbefore⟩
  · rintro ⟨k, hk, rfl, hready, hbefore⟩
    exact ⟨k, ⟨hready, hk, hbefore⟩, rfl⟩

theorem nextSource_eq_none_iff {lp : LinkParams} {rr : Nat} {qs : List (List Txn)} :
    nextSource lp rr qs = none ↔ noneReady lp qs := by
  simp only [nextSource, searchOrder, List.find?_map, Option.map_eq_none_iff, List.find?_eq_none, Function.comp,
    List.mem_range, Bool.not_eq_true', Bool.not_eq_false, List.isEmpty_iff, noneReady]
  constructor
  · intro h s hs
    obtain ⟨k, hk, rfl⟩ := exists_turn_of_source (rr + lp.rrStartOffset) hs
    exact h k hk
  · exact fun h k hk => h _ (Nat.mod_lt _ (by omega))

theorem deqAt_of_cons {qs : List (List Txn)} {s : Nat} {t : Txn} {rest : List Txn} (h : queueAt qs s = t :: rest) :
    deqAt qs s = qs.set s rest := by
  rw [deqAt, h, List.tail_cons]

/-! ### A packet in progress -/

section Choice

variable {lp : LinkParams} {l : Link}

theorem withPacket_of_cur {c : Packet} (h : l.cur = some c) : withPacket lp l = .ok l := by
  simp only [withPacket, h]

theorem withPacket_of_none (h : l.cur = none) : withPacket lp l = selectNext lp l := by
  simp only [withPacket, h]

/-! ### A plain link -/

theorem packetFlits_eq (t : Txn) :
    packetFlits lp t =
      ((if t.type = 1 ∨ t.type = 2 then lp.headBits + 8 * t.len else lp.headBits) + lp.flitBits - 1) / lp.flitBits := by
  simp only [packetFlits, packetBits, long_eq_true_iff, ceilDiv]

theorem selectPlain_of_firstReady {s : Nat} {t : Txn} {rest : List Txn} (hat : lp.badTypeAt = .push)
    (hfirst : firstReady lp l.rr l.ready s) (hq : queueAt l.ready s = t :: rest) :
    selectPlain lp l = .ok
      { l with
        ready := l.ready.set s rest, rr := s
        cur := some { txn := t, left := packetFlits lp t, first := true } } := by
  simp only [selectPlain, nextSource_eq_some_iff.2 hfirst, hq, scheduleCheck_ok hat, deqAt_of_cons hq]
  rfl

theorem selectPlain_of_noneReady (h : noneReady lp l.ready) : selectPlain lp l = .ok l := by
  simp only [selectPlain, nextSource_eq_none_iff.2 h]

/-! ### A short and a long transaction of a compressed link -/

/-- The link after a short transaction of a source is taken: its pad is charged to the shorts (R301, R304). -/
def shortTaken (lp : LinkParams) (l : Link) (s : Nat) (t : Txn) (rest : List Txn) : Link :=
  { l with
    readyShort := l.readyShort.set s rest, rr := s
    leftoverNodata := paddedRest lp lp.headBits l.leftoverNodata
    cur := some { txn := t, left := paddedFlits lp lp.headBits l.leftoverNodata, first := true } }

/-- The link after the visible head of the compressed queue is taken: its pad is charged to the longs (R300). -/
def longTaken (lp : LinkParams) (l : Link) (c : CSlot) (t : Txn) : Link :=
  { l with
    cdq := cdqAfterPop lp.cdq l.cdq
    leftover := paddedRest lp (lp.headBits + c.size.toNat) l.leftover
    cur := some { txn := t, left := paddedFlits lp (lp.headBits + c.size.toNat) l.leftover, first := true } }

theorem serveShort_of_firstReady {s : Nat} {t : Txn} {rest : List Txn} (hat : lp.badTypeAt = .push)
    (hfirst : firstReady lp l.rr l.readyShort s) (hq : queueAt l.readyShort s = t :: rest) :
    serveShort lp l = .ok (some (shortTaken lp l s t rest)) := by
  simp only [serveShort, nextSource_eq_some_iff.2 hfirst, hq, scheduleCheck_ok hat, deqAt_of_cons hq]
  rfl

theorem serveShort_of_noneReady (h : noneReady lp l.readyShort) : serveShort lp l = .ok none := by
  simp only [serveShort, nextSource_eq_none_iff.2 h]

theorem serveLong_of_visible {c : CSlot} {t : Txn} (htop : cdqTop lp.cdq l.cdq l.cycle = some c) (ht : c.txn = some t) :
    serveLong lp l = some (longTaken lp l c t) := by
  simp only [serveLong, htop, ht]
  rfl

theorem serveLong_of_hidden (htop : cdqTop lp.cdq l.cdq l.cycle = none) : serveLong lp l = none := by
  simp only [serveLong, htop]

/-! ### The down link -/

theorem selectDown_of_short {l' : Link} (hpad : l.leftover = 0) (hshort : serveShort lp l = .ok (some l')) :
    selectDown lp l = .ok l' := by
  simp only [selectDown, if_pos hpad, hshort]
  rfl

/-- No short is served: a leftover is pending, or there is none. -/
abbrev noShortServed (lp : LinkParams) (l : Link) : Prop := l.leftover ≠ 0 ∨ noneReady lp l.readyShort

theorem shortTurn_of_noShortServed (h : noShortServed lp l) :
    (if l.leftover = 0 then serveShort lp l else .ok none) = .ok none := by
  split
  case isTrue hpad => exact serveShort_of_noneReady (h.resolve_left (not_not_intro hpad))
  case isFalse => rfl

theorem selectDown_of_long {l' : Link} (h : noShortServed lp l) (hlong : serveLong lp l = some l') :
    selectDown lp l = .ok l' := by
  simp only [selectDown, shortTurn_of_noShortServed h, hlong]
  rfl

theorem selectDown_of_nothing (hfallback : lp.dnShortFallback = false) (h : noShortServed lp l)
    (hlong : serveLong lp l = none) : selectDown lp l = .ok l := by
  simp only [selectDown, shortTurn_of_noShortServed h, hlong, hfallback, Bool.false_eq_true, and_false, if_false]
  rfl

/-! ### The up link -/

theorem selectUp_of_long {l' : Link} (hlong : serveLong lp l = some l') : selectUp lp l = .ok l' := by
  simp only [selectUp, hlong]

theorem selectUp_of_hidden {r : Option Link} (hlong : serveLong lp l = none) (hshort : serveShort lp l = .ok r) :
    selectUp lp l = .ok (r.getD l) := by
  simp only [selectUp, hlong, hshort]
  rfl

end Choice

/-! ### The choice of each link -/

/-- Settles O49: the search is a search along the sources from the cursor, and a plain link takes what it finds. -/
theorem roundRobinFindsTheFirstReadySource : Obligations.RoundRobinFindsTheFirstReadySource := by
  refine ⟨fun lp rr qs => ⟨fun s => nextSource_eq_some_iff.1, nextSource_eq_none_iff⟩,
    fun lp l hkind hat => ⟨fun c => withPacket_of_cur, fun hcur => ?_⟩⟩
  simp only [withPacket_of_none hcur, selectNext, hkind, ← packetFlits_eq]
  exact ⟨fun s t rest => selectPlain_of_firstReady hat, selectPlain_of_noneReady⟩

/-- Settles O52, in the order of the down link's tests. -/
theorem downLinkPriority : Obligations.DownLinkPriority := by
  refine fun lp l hkind hdir hat hfallback => ⟨fun c => withPacket_of_cur, fun hcur => ?_⟩
  simp only [withPacket_of_none hcur, selectNext, hkind, hdir]
  refine ⟨fun s t rest hpad hfirst hq => ?short, fun c t h htop ht => ?long, fun h htop => ?nothing⟩
  case short => exact selectDown_of_short hpad (serveShort_of_firstReady hat hfirst hq)
  case long => exact selectDown_of_long h (serveLong_of_visible htop ht)
  case nothing => exact selectDown_of_nothing hfallback h (serveLong_of_hidden htop)

/-- Settles O53, in the order of the up link's tests. -/
theorem upLinkPriority : Obligations.UpLinkPriority := by
  refine fun lp l hkind hdir hat => ⟨fun c => withPacket_of_cur, fun hcur => ?_⟩
  simp only [withPacket_of_none hcur, selectNext, hkind, hdir]
  refine ⟨fun c t htop ht => ?long, fun s t rest htop hfirst hq => ?short, fun htop hnone => ?nothing⟩
  case long => exact selectUp_of_long (serveLong_of_visible htop ht)
  case short => exact selectUp_of_hidden (serveLong_of_hidden htop) (serveShort_of_firstReady hat hfirst hq)
  case nothing => exact selectUp_of_hidden (serveLong_of_hidden htop) (serveShort_of_noneReady hnone)

/-! ### Flits and pads -/

theorem le_ceilDiv_mul {a b : Nat} (hb : 1 ≤ b) : a ≤ ceilDiv a b * b := by
  have hmod := Nat.div_add_mod' (a + b - 1) b
  have hlt := Nat.mod_lt (a + b - 1) hb
  unfold ceilDiv
  omega

/-- Settles O51: rounding the charged bits up to whole flits gives the flits and the pad. -/
theorem leftoverArithmetic : Obligations.LeftoverArithmetic := by
  intro lp need pad hflit hneed _
  have hcharged := leftoverUse_lt (lp := lp) pad hneed
  refine ⟨ceilDiv_pos (by omega) hflit, ceilDiv_mul_sub_lt hflit, leftoverUse lp need pad, ?saved, by omega, ?on, ?off,
    (Nat.add_sub_of_le (le_ceilDiv_mul hflit)).symm⟩
  case saved =>
    unfold leftoverUse
    split <;> omega
  case on => exact fun h => if_pos h
  case off => exact fun h => if_neg (by simp [h])

end Sys2Proof.Proofs
end

section
/-! PROOFS. The push phase (spec/47_oneway_link.md R272, R274, R275; spec/48_compressed_link.md R297): the flits of a packet
one after the other, then slack. Settles O50. -/

namespace Sys2Proof.Proofs

open Sys2Proof.Machine Sys2Proof.Claims

/-! ### The flits of a packet -/

/-- The packet after one flit: one fewer left, and no longer the first (R270). -/
def nextFlitOf (c : Packet) : Packet := { c with left := c.left - 1, first := false }

theorem packet_rest_eq (c : Packet) : c.rest = if c.left - 1 = 0 then none else some (nextFlitOf c) := rfl

theorem packetFlitList_succ (c : Packet) (k : Nat) :
    packetFlitList c (k + 1) = c.flit :: packetFlitList (nextFlitOf c) k := by
  simp only [packetFlitList, List.range_succ_eq_map, List.map_cons, List.map_map]
  exact congrArg₂ List.cons (by simp [Packet.flit]) (List.map_congr_left fun j _ => by simp [nextFlitOf])

section PushPhase

variable {lp : LinkParams} {l m : Link} {c : Packet}

/-- The link after the first flits of the packet in progress (R274). -/
def flitsSent (lp : LinkParams) (l : Link) (c : Packet) (k : Nat) : Link :=
  { l with
    dq := dqRun lp.dq ((packetFlitList c k).map some) l.dq
    cur := if c.left = k then none else some { txn := c.txn, left := c.left - k, first := false } }

theorem emitFlit_eq_flitsSent (h : 1 ≤ c.left) : emitFlit lp l c = flitsSent lp l c 1 := by
  have hlast : c.left - 1 = 0 ↔ c.left = 1 := by omega
  simp only [emitFlit, packet_rest_eq, flitsSent, packetFlitList_succ c 0, hlast]
  rfl

theorem flitsSent_succ (k : Nat) (h : 1 ≤ c.left) :
    flitsSent lp (emitFlit lp l c) (nextFlitOf c) k = flitsSent lp l c (k + 1) := by
  have hlast : c.left - 1 = k ↔ c.left = k + 1 := by omega
  simp only [flitsSent, packetFlitList_succ c k, nextFlitOf, hlast, Nat.sub_sub, Nat.add_comm 1 k]
  rfl

/-! ### One push -/

theorem pushPhase_of_packet (n : Nat) (hwith : withPacket lp l = .ok m) (hcur : m.cur = some c) :
    pushPhase lp (n + 1) l = pushPhase lp n (emitFlit lp m c) := by
  simp only [pushPhase, hwith]
  simp only [bind, Except.bind, hcur]

theorem pushPhase_of_noPacket (n : Nat) (hwith : withPacket lp l = .ok m) (hcur : m.cur = none) :
    pushPhase lp (n + 1) l = .ok (pushSlack lp (n + 1) m) := by
  simp only [pushPhase, hwith]
  simp only [bind, Except.bind, hcur]

theorem pushPhase_of_fault {f : FaultCode} (n : Nat) (hwith : withPacket lp l = .error f) :
    pushPhase lp (n + 1) l = .error f := by
  simp only [pushPhase, hwith]
  rfl

/-! ### A packet's pushes and the slack -/

/-- The packet in progress takes the pushes that it needs, and the rest of the budget goes on from there. -/
theorem pushPhase_of_cur (n : Nat) {k : Nat} (hk : 1 ≤ k) (hcur : l.cur = some c) (hle : k ≤ c.left) :
    pushPhase lp (k + n) l = pushPhase lp n (flitsSent lp l c k) := by
  induction k, hk using Nat.le_induction generalizing l c with
  | base => rw [Nat.add_comm, pushPhase_of_packet n (withPacket_of_cur hcur) hcur, emitFlit_eq_flitsSent hle]
  | succ k hk ih =>
    have hrest : (emitFlit lp l c).cur = some (nextFlitOf c) := if_neg (by omega)
    calc pushPhase lp (k + 1 + n) l
        = pushPhase lp (k + n + 1) l := by rw [Nat.add_right_comm]
      _ = pushPhase lp (k + n) (emitFlit lp l c) := pushPhase_of_packet _ (withPacket_of_cur hcur) hcur
      _ = pushPhase lp n (flitsSent lp (emitFlit lp l c) (nextFlitOf c) k) := ih hrest (Nat.le_sub_one_of_lt hle)
      _ = pushPhase lp n (flitsSent lp l c (k + 1)) := by rw [flitsSent_succ k (by omega)]

/-- A packet that is taken goes on as if it had been in progress. -/
theorem pushPhase_of_taken (n : Nat) (hwith : withPacket lp l = .ok m) (hcur : m.cur = some c) :
    pushPhase lp (n + 1) l = pushPhase lp (n + 1) m := by
  rw [pushPhase_of_packet n hwith hcur, pushPhase_of_packet n (withPacket_of_cur hcur) hcur]

/-- The slack of a push phase is a run of empty flits (R275). -/
theorem pushSlack_eq (n : Nat) (l : Link) :
    pushSlack lp n l = { l with dq := dqRun lp.dq (List.replicate n (some Slot.empty)) l.dq } := by
  induction n generalizing l with
  | zero => rfl
  | succ n ih => exact ih _

end PushPhase

/-- Settles O50: a budget of 0, the packet in progress, the packet taken, the slack, the fault. -/
theorem packetsAreConsecutiveFlits : Obligations.PacketsAreConsecutiveFlits := by
  refine fun lp l => ⟨rfl, fun c n hcur hpos hle => ?going, fun m c n k hwith hcur hpos hle => ?taken,
    fun m n hwith hcur hpos => ?slack, fun f n hwith hpos => ?fault⟩
  case going => exact pushPhase_of_cur 0 hpos hcur hle
  case taken =>
    obtain ⟨k, rfl⟩ := Nat.exists_eq_add_of_le' hpos
    have htaken := pushPhase_of_taken (k + n) hwith hcur
    rw [Nat.add_right_comm] at htaken
    exact htaken.trans (pushPhase_of_cur n hpos hcur hle)
  case slack =>
    obtain ⟨n, rfl⟩ := Nat.exists_eq_add_of_le' hpos
    rw [pushPhase_of_noPacket n hwith hcur, pushSlack_eq]
    rfl
  case fault =>
    obtain ⟨n, rfl⟩ := Nat.exists_eq_add_of_le' hpos
    exact pushPhase_of_fault n hwith

end Sys2Proof.Proofs
end

section
/-! PROOFS. The parts of a link's step: the pop phase and the deliveries (spec/47_oneway_link.md R270, R271;
spec/60_exceptions.md R358), how many pushes a step makes (47 R272), the compression pass (spec/48_compressed_link.md R295,
R305) and when it meets no fault. Settles O54. -/

namespace Sys2Proof.Proofs

open Sys2Proof.Machine Sys2Proof.Claims

/-! ### The pop phase -/

section Pop

variable {lp : LinkParams} {n : Nat} {l : Link}

theorem popPhase_succ_of_ok {m : Link} (h : popOnce lp l = .ok m) : popPhase lp (n + 1) l = popPhase lp n m := by
  rw [popPhase, h]
  rfl

theorem popPhase_succ_of_error {f : FaultCode} (h : popOnce lp l = .error f) : popPhase lp (n + 1) l = .error f := by
  rw [popPhase, h]
  rfl

theorem poppedTxns_of_none {p : DqParams} {q : Dq} (h : dqHead q = none) :
    poppedTxns p (n + 1) q = poppedTxns p n (dqAfterPop p q) := by
  simp [poppedTxns, h]

theorem poppedTxns_of_some {p : DqParams} {q : Dq} {t : Txn} (h : dqHead q = some t) :
    poppedTxns p (n + 1) q = t :: poppedTxns p n (dqAfterPop p q) := by
  simp [poppedTxns, h]

theorem popped_of_none (h : dqHead l.dq = none) :
    popped lp (n + 1) l = popped lp n { l with dq := dqAfterPop lp.dq l.dq } := by
  simp only [popped, poppedTxns_of_none h]
  rfl

theorem popped_of_some {t : Txn} (h : dqHead l.dq = some t) :
    popped lp (n + 1) l = popped lp n { l with dq := dqAfterPop lp.dq l.dq, done := enqAt l.done t.dst t } := by
  simp only [popped, poppedTxns_of_some h]
  rfl

/-- A pop phase that completes has made its n pops and delivered what they returned (R271). -/
theorem popPhase_eq_popped {m : Link} (h : popPhase lp n l = .ok m) : m = popped lp n l := by
  induction n generalizing l with
  | zero => cases h; rfl
  | succ n ih =>
    rcases popOnce_cases lp l with ⟨hhead, e⟩ | ⟨t, hhead, ⟨_, e⟩ | ⟨_, e⟩⟩
    · rw [popPhase_succ_of_ok e] at h
      rw [popped_of_none hhead, ih h]
    · rw [popPhase_succ_of_error e] at h
      cases h
    · rw [popPhase_succ_of_ok e] at h
      rw [popped_of_some hhead, ih h]

/-- Of transactions delivered in order, one meets a completed queue that holds a bounded DONE_DEPTH (R358). -/
def Overflows (lp : LinkParams) (done : List (List Txn)) (ts : List Txn) : Prop :=
  ∃ d before t after, lp.doneDepth = some d ∧ ts = before ++ t :: after ∧
    (queueAt (delivered done before) t.dst).length = d

theorem not_overflows_nil (done : List (List Txn)) : ¬Overflows lp done [] := by
  rintro ⟨d, before, t, after, _, hsplit, _⟩
  simp at hsplit

theorem doneFull_eq_true_iff {dst : Nat} :
    doneFull lp l dst = true ↔ ∃ d, lp.doneDepth = some d ∧ (queueAt l.done dst).length = d := by
  cases hdepth : lp.doneDepth with
  | none => simp [doneFull, hdepth]
  | some d => simp only [doneFull, hdepth, beq_iff_eq, Option.some.injEq, exists_eq_left']

/-- The first transaction overflows, or one after it does. -/
theorem overflows_cons_iff {t : Txn} {ts : List Txn} :
    Overflows lp l.done (t :: ts) ↔ doneFull lp l t.dst = true ∨ Overflows lp (enqAt l.done t.dst t) ts := by
  rw [doneFull_eq_true_iff]
  constructor
  · rintro ⟨d, before, t', after, hd, hsplit, hfull⟩
    cases before with
    | nil =>
      obtain ⟨rfl, rfl⟩ := List.cons.inj hsplit
      exact .inl ⟨d, hd, hfull⟩
    | cons b before =>
      obtain ⟨rfl, rfl⟩ := List.cons.inj hsplit
      exact .inr ⟨d, before, t', after, hd, rfl, hfull⟩
  · rintro (⟨d, hd, hfull⟩ | ⟨d, before, t', after, hd, rfl, hfull⟩)
    · exact ⟨d, [], t, ts, hd, rfl, hfull⟩
    · exact ⟨d, t :: before, t', after, hd, rfl, hfull⟩

theorem popPhase_overflow_iff :
    popPhase lp n l = .error .doneOverflow ↔ Overflows lp l.done (poppedTxns lp.dq n l.dq) := by
  induction n generalizing l with
  | zero => simp [popPhase, poppedTxns, not_overflows_nil]
  | succ n ih =>
    rcases popOnce_cases lp l with ⟨hhead, e⟩ | ⟨t, hhead, ⟨hfull, e⟩ | ⟨hroom, e⟩⟩
    · rw [popPhase_succ_of_ok e, poppedTxns_of_none hhead]
      exact ih
    · rw [popPhase_succ_of_error e, poppedTxns_of_some hhead, overflows_cons_iff]
      simp [hfull]
    · rw [popPhase_succ_of_ok e, poppedTxns_of_some hhead, overflows_cons_iff, ih]
      simp [hroom]

end Pop

/-! ### The pushes of a step -/

section Pushes

variable {lp : LinkParams} {n : Nat} {l m k j : Link}

theorem dqRun_append (p : DqParams) (uses more : List (Option Slot)) (q : Dq) :
    dqRun p (uses ++ more) q = dqRun p more (dqRun p uses q) := by
  induction uses generalizing q with
  | nil => rfl
  | cons use uses ih => cases use <;> exact ih _

/-- The second link is the first after n pushes, with the same completed queues and cycle. -/
def Pushed (lp : LinkParams) (n : Nat) (l m : Link) : Prop :=
  m.done = l.done ∧ m.cycle = l.cycle ∧
    ∃ flits : List Slot, flits.length = n ∧ m.dq = dqRun lp.dq (flits.map some) l.dq

theorem withPacket_dq (h : withPacket lp l = .ok m) : m.dq = l.dq := by
  rcases withPacket_eq_ok h with ⟨_, rfl⟩ | ⟨_, hsel⟩
  · rfl
  · obtain ⟨hdq, _⟩ := selectNext_frame hsel
    exact hdq

theorem pushPhase_flits (h : pushPhase lp n l = .ok m) :
    ∃ flits : List Slot, flits.length = n ∧ m.dq = dqRun lp.dq (flits.map some) l.dq := by
  induction n generalizing l with
  | zero => cases h; exact ⟨[], rfl, rfl⟩
  | succ n ih =>
    obtain ⟨k, hwith, _⟩ := bind_eq_ok.1 h
    rw [← withPacket_dq hwith]
    cases hcur : k.cur with
    | none =>
      rw [pushPhase_of_noPacket n hwith hcur] at h
      cases h
      exact ⟨List.replicate (n + 1) Slot.empty, List.length_replicate, by rw [pushSlack_eq, List.map_replicate]⟩
    | some c =>
      rw [pushPhase_of_packet n hwith hcur] at h
      obtain ⟨flits, hlen, hdq⟩ := ih h
      exact ⟨c.flit :: flits, by rw [List.length_cons, hlen], hdq⟩

theorem pushPhase_pushed (h : pushPhase lp n l = .ok m) : Pushed lp n l m := by
  obtain ⟨hdone, _, _, hcycle⟩ := pushPhase_frame h
  exact ⟨hdone, hcycle, pushPhase_flits h⟩

/-- A compression pass after the pushes or before them adds none (48 R305). -/
theorem Pushed.then_pass (h : Pushed lp n l m) (hpass : samePass m k) : Pushed lp n l k := by
  obtain ⟨_, _, hdone, hdq, _, _, _, _, hcycle⟩ := hpass
  simpa only [Pushed, hdone, hdq, hcycle] using h

theorem Pushed.after_pass (hpass : samePass l m) (h : Pushed lp n m k) : Pushed lp n l k := by
  obtain ⟨_, _, hdone, hdq, _, _, _, _, hcycle⟩ := hpass
  simpa only [Pushed, hdone, hdq, hcycle] using h

/-- n pops and n pushes take both pointers n places on (R271, R272; 20_memory.md R70). -/
theorem Pushed.pointers (hdq : dqOk lp.dq l.dq) (h : Pushed lp n (popped lp n l) m) :
    m.dq.rd = (l.dq.rd + n) % lp.dq.cap ∧ m.dq.wr = (l.dq.wr + n) % lp.dq.cap := by
  obtain ⟨_, _, flits, hlen, hring⟩ := h
  have huses : m.dq = dqRun lp.dq (List.replicate n none ++ flits.map some) l.dq := by
    rw [dqRun_append]; exact hring
  obtain ⟨_, hrdLt, hwrLt⟩ := dqOk_run (List.replicate n none ++ flits.map some) hdq
  have hrd := dqRun_rd_modEq lp.dq (List.replicate n none ++ flits.map some) l.dq
  have hwr := dqRun_wr_modEq lp.dq (List.replicate n none ++ flits.map some) l.dq
  rw [Nat.ModEq, Nat.mod_eq_of_lt hrdLt] at hrd
  rw [Nat.ModEq, Nat.mod_eq_of_lt hwrLt] at hwr
  rw [huses, hrd, hwr]
  simp [List.filter_map, Function.comp_def, hlen]

end Pushes

/-! ### The compression pass -/

section Pass

variable {p : Params} {lp : LinkParams} {s : Nat} {x : PassState} {t : Txn} {rest : List Txn}

theorem compressOne_of_idle (h : queueAt x.link.readyLong s = [] ∨ x.link.cdq.count = lp.cdq.cap) :
    compressOne p lp s x = .ok x := by
  unfold compressOne
  split
  case h_1 => rfl
  case h_2 hq =>
    have hfull := h.resolve_left (by simp [hq])
    exact if_neg (by omega)

theorem compressOne_of_error {f : FaultCode} (hq : queueAt x.link.readyLong s = t :: rest)
    (hroom : x.link.cdq.count < lp.cdq.cap) (hcomp : compressTxn p x.engine t = .error f) :
    compressOne p lp s x = .error f := by
  simp only [compressOne, hq, if_pos hroom, hcomp]
  rfl

theorem compressOne_of_ok {bits : Nat} {e : Engine} (hq : queueAt x.link.readyLong s = t :: rest)
    (hroom : x.link.cdq.count < lp.cdq.cap) (hcomp : compressTxn p x.engine t = .ok (bits, e)) :
    ∃ q, cdqPush lp.cdq x.link.cdq t (linkSize lp t bits) x.link.cycle = .ok q ∧
      compressOne p lp s x = .ok
        { link := { x.link with readyLong := x.link.readyLong.set s rest, cdq := q }, engine := e, last := some s } := by
  have hpush := cdqPush_of_room t (linkSize lp t bits) x.link.cycle hroom.ne
  refine ⟨_, hpush, ?_⟩
  simp only [compressOne, hq, if_pos hroom, hcomp, ← deqAt_of_cons hq]
  exact bind_eq_ok.2 ⟨_, rfl, bind_eq_ok.2 ⟨_, hpush, rfl⟩⟩

theorem compressTxn_of_len {e : Engine} (hlen : t.len = 32 ∨ t.len = 128) :
    compressTxn p e t = engineCompress p e t.payload t.len := if_pos hlen

theorem compressTxn_of_badLen {e : Engine} (h32 : t.len ≠ 32) (h128 : t.len ≠ 128) :
    compressTxn p e t = .error .badLen := if_neg (by simp [h32, h128])

/-- With one transaction per source a sweep over one source is that source's turn. -/
theorem compressSweep_singleton (hone : lp.compPerSrcPerStep = 1) : compressSweep p lp [s] x = compressOne p lp s x := by
  simp only [compressSweep, compressSource, hone]
  cases compressOne p lp s x <;> rfl

theorem compressSweep_cons (ss : List Nat) :
    compressSweep p lp (s :: ss) x = (compressSweep p lp [s] x).bind (compressSweep p lp ss) := by
  simp only [compressSweep]
  cases compressSource p lp s lp.compPerSrcPerStep x <;> rfl

theorem linkSize_of_noClamp (h : lp.clampRaw = false) (bits : Nat) : linkSize lp t bits = BitVec.ofNat 32 bits := by
  simp [linkSize, h]

end Pass

/-- Settles O54: a source's turn, the sweep as its turns, the pass as the sweep and its cursor. -/
theorem compressionPassTakesOnePerSource : Obligations.CompressionPassTakesOnePerSource := by
  intro p lp hone hclamp
  simp only [compressSweep_singleton hone]
  refine ⟨fun x s t rest bits e hq hroom hlen hcomp => ?taken, fun x s => compressOne_of_idle,
    fun x s t rest hq hroom h32 h128 => ?badLen, fun _ => rfl, fun x s ss => ?cons, fun l l' e e' hpass => ?pass⟩
  case taken =>
    rw [← compressTxn_of_len hlen] at hcomp
    rw [← linkSize_of_noClamp hclamp]
    exact compressOne_of_ok hq hroom hcomp
  case badLen => exact compressOne_of_error hq hroom (compressTxn_of_badLen h32 h128)
  case cons => rw [compressSweep_cons, compressSweep_singleton hone]
  case pass =>
    obtain ⟨x, hsweep, hcursor⟩ := bind_eq_ok.1 hpass
    refine ⟨x, hsweep, ?_⟩
    cases hlast : x.last with
    | none | some s =>
      rw [hlast] at hcursor
      cases hcursor
      exact ⟨rfl, rfl⟩

/-! ### A pass that meets no fault -/

section NoFault

variable {p : Params} {lp : LinkParams}

/-- The engine admits the lengths that a link compresses (R295; 20_memory.md R66). -/
def EngineAdmits (p : Params) : Prop := p.alg.isSome = true ∧ 128 ≤ p.maxLineBytes

/-- Every long transaction that waits has an admitted length (R295). -/
def LongsAdmitted (l : Link) : Prop := ∀ q ∈ l.readyLong, ∀ t ∈ q, t.len = 32 ∨ t.len = 128

theorem compressTxn_completes {e : Engine} {t : Txn} (hp : EngineAdmits p) (hlen : t.len = 32 ∨ t.len = 128) :
    ∃ r, compressTxn p e t = .ok r := by
  obtain ⟨halg, hmax⟩ := hp
  obtain ⟨a, ha⟩ := Option.isSome_iff_exists.1 halg
  have hunit : t.len % lineUnit a = 0 := by rcases hlen with h | h <;> rw [h] <;> cases a <;> rfl
  rw [compressTxn_of_len hlen]
  exact ⟨_, engineCompress_of_admitted e t.payload ha (by omega) hunit (by omega)⟩

theorem compressOne_completes (hp : EngineAdmits p) (s : Nat) {x : PassState} (h : LongsAdmitted x.link) :
    ∃ y, compressOne p lp s x = .ok y ∧ LongsAdmitted y.link := by
  cases hq : queueAt x.link.readyLong s with
  | nil => exact ⟨x, compressOne_of_idle (.inl hq), h⟩
  | cons t rest =>
    by_cases hroom : x.link.cdq.count < lp.cdq.cap
    · have hmem : t :: rest ∈ x.link.readyLong :=
        hq ▸ (queueAt_mem_or_nil _ s).resolve_right (by simp [hq])
      obtain ⟨ht, hrest⟩ := List.forall_mem_cons.1 (h _ hmem)
      obtain ⟨⟨bits, e⟩, hcomp⟩ := compressTxn_completes (e := x.engine) hp ht
      obtain ⟨q, _, hone⟩ := compressOne_of_ok hq hroom hcomp
      exact ⟨_, hone, forall_mem_set s h hrest⟩
    · refine ⟨x, ?_, h⟩
      simp only [compressOne, hq, if_neg hroom]

theorem compressSource_completes (hp : EngineAdmits p) (s n : Nat) {x : PassState} (h : LongsAdmitted x.link) :
    ∃ y, compressSource p lp s n x = .ok y ∧ LongsAdmitted y.link := by
  induction n generalizing x with
  | zero => exact ⟨x, rfl, h⟩
  | succ n ih =>
    obtain ⟨y, hone, hy⟩ := compressOne_completes (lp := lp) hp s h
    obtain ⟨z, hrest, hz⟩ := ih hy
    exact ⟨z, bind_eq_ok.2 ⟨y, hone, hrest⟩, hz⟩

theorem compressSweep_completes (hp : EngineAdmits p) (ss : List Nat) {x : PassState} (h : LongsAdmitted x.link) :
    ∃ y, compressSweep p lp ss x = .ok y := by
  induction ss generalizing x with
  | nil => exact ⟨x, rfl⟩
  | cons s ss ih =>
    obtain ⟨y, hsource, hy⟩ := compressSource_completes (lp := lp) hp s lp.compPerSrcPerStep h
    obtain ⟨z, hrest⟩ := ih hy
    exact ⟨z, bind_eq_ok.2 ⟨y, hsource, hrest⟩⟩

theorem compressionPass_completes (hp : EngineAdmits p) {l : Link} (e : Engine) (h : LongsAdmitted l) :
    ∃ r, compressionPass p lp l e = .ok r := by
  obtain ⟨x, hsweep⟩ := compressSweep_completes (lp := lp) hp (searchOrder lp.sources l.crr)
    (x := { link := l, engine := e, last := none }) h
  cases hlast : x.last with
  | none => exact ⟨_, bind_eq_ok.2 ⟨x, hsweep, by rw [hlast]⟩⟩
  | some s => exact ⟨_, bind_eq_ok.2 ⟨x, hsweep, by rw [hlast]⟩⟩

end NoFault

end Sys2Proof.Proofs
end

section
/-! PROOFS. The step of a link, put together from its parts: what it completes with, with the discard and the tick
(spec/48_compressed_link.md R297, R306, R307), the faults that it can raise (spec/60_exceptions.md R348, R358) and the
budgets of the memory link (spec/49_memory_link.md R332 to R334). Settles O46, O47, O48, O55, O56, O57. -/

namespace Sys2Proof.Proofs

open Sys2Proof.Machine Sys2Proof.Claims

/-! ### A completed step -/

section Step

variable {p : Params} {lp : LinkParams} {l l' : Link} {e e' : Engine} {n : Nat}

theorem tick_discard_eq_ticked (l : Link) : tick (discardLeftover l) = ticked l := by
  rcases discardLeftover_cases l with ⟨hcur, h⟩ | ⟨⟨c, hcur⟩, h⟩ <;> rw [h] <;> simp [tick, ticked, hcur]

theorem plainStep_eq_ok (hkind : lp.kind = .plain) (h : linkStep p lp l e n = .ok (l', e')) :
    e' = e ∧ pushPhase lp n (popped lp n l) = .ok l' := by
  rcases linkStep_eq_ok h with ⟨_, rfl, m, hpop, hpush⟩ | ⟨hkind', _⟩
  · exact ⟨rfl, popPhase_eq_popped hpop ▸ hpush⟩
  · rw [hkind] at hkind'; cases hkind'

/-- The parts of a compressed link's step after its pops, in the order that COMP_PASS_FIRST names (log 13). -/
def PushedAndCompressed (p : Params) (lp : LinkParams) (n : Nat) (m j : Link) (e e' : Engine) : Prop :=
  (lp.compPassFirst = false ∧ ∃ k, pushPhase lp n m = .ok k ∧ compressionPass p lp k e = .ok (j, e')) ∨
    (lp.compPassFirst = true ∧ ∃ k, compressionPass p lp m e = .ok (k, e') ∧ pushPhase lp n k = .ok j)

theorem compressedStep_eq_ok (hkind : lp.kind = .compressed) (h : linkStep p lp l e n = .ok (l', e')) :
    ∃ j, l' = ticked j ∧ PushedAndCompressed p lp n (popped lp n l) j e e' := by
  rcases linkStep_eq_ok h with ⟨hkind', _⟩ | ⟨_, m, k, j, hpop, hl', horder⟩
  · rw [hkind] at hkind'; cases hkind'
  · refine ⟨j, hl'.trans (tick_discard_eq_ticked j), ?_⟩
    rw [← popPhase_eq_popped hpop]
    exact horder.imp (fun ⟨hfirst, h⟩ => ⟨hfirst, k, h⟩) fun ⟨hfirst, h⟩ => ⟨hfirst, k, h⟩

theorem PushedAndCompressed.pushed {m j : Link} (h : PushedAndCompressed p lp n m j e e') : Pushed lp n m j := by
  rcases h with ⟨_, k, hpush, hpass⟩ | ⟨_, k, hpass, hpush⟩
  · exact (pushPhase_pushed hpush).then_pass (compressionPass_frame hpass)
  · exact Pushed.after_pass (compressionPass_frame hpass) (pushPhase_pushed hpush)

/-- A completed step is the one of the rules, on either kind of link. -/
theorem linkStep_stepped (hdq : dqOk lp.dq l.dq) (h : linkStep p lp l e n = .ok (l', e')) :
    stepped p lp n l l' e e' := by
  cases hkind : lp.kind with
  | plain =>
    obtain ⟨rfl, hpush⟩ := plainStep_eq_ok hkind h
    have hpushed := pushPhase_pushed hpush
    obtain ⟨hrd, hwr⟩ := hpushed.pointers hdq
    obtain ⟨hdone, hcycle, _⟩ := hpushed
    have hne : lp.kind ≠ .compressed := by simp [hkind]
    exact ⟨hrd, hwr, hdone, hcycle.trans (if_neg hne).symm, fun _ => ⟨hpush, rfl⟩, fun h => absurd h hne,
      fun h => absurd h hne⟩
  | compressed =>
    obtain ⟨j, rfl, hparts⟩ := compressedStep_eq_ok hkind h
    have hpushed := hparts.pushed
    obtain ⟨hrd, hwr⟩ := hpushed.pointers hdq
    obtain ⟨hdone, hcycle, _⟩ := hpushed
    have hne : lp.kind ≠ .plain := by simp [hkind]
    have htick : (ticked j).cycle = l.cycle + 1 := congrArg (· + 1) hcycle
    refine ⟨hrd, hwr, hdone, htick.trans (if_pos hkind).symm, fun h => absurd h hne, fun _ hlast => ?_,
      fun _ hfirst => ?_⟩
    · obtain ⟨_, k, hpush, hpass⟩ := hparts.resolve_right fun h => by rw [hlast] at h; cases h.1
      exact ⟨k, j, hpush, hpass, rfl⟩
    · obtain ⟨_, k, hpass, hpush⟩ := hparts.resolve_left fun h => by rw [hfirst] at h; cases h.1
      exact ⟨k, j, hpass, hpush, rfl⟩

/-! ### A step that faults -/

/-- The fault of a step is that of its pops, of its pushes or of its compression pass. -/
theorem linkStep_error {f : FaultCode} (h : linkStep p lp l e n = .error f) :
    popPhase lp n l = .error f ∨ (∃ m, pushPhase lp n m = .error f) ∨
      (lp.kind = .compressed ∧ ∃ m, m.readyLong = l.readyLong ∧ compressionPass p lp m e = .error f) := by
  unfold linkStep at h
  split at h
  case h_1 =>
    simp only [stepPlain, bind_eq_error] at h
    rcases h with (hpop | ⟨m, _, hpush⟩) | ⟨_, _, h⟩
    · exact .inl hpop
    · exact .inr (.inl ⟨m, hpush⟩)
    · cases h
  case h_2 hkind =>
    simp only [stepCompressed, bind_eq_error] at h
    rcases h with hpop | ⟨m, hpop, h⟩
    · exact .inl hpop
    have hm : m.readyLong = l.readyLong := by rw [popPhase_eq_popped hpop]; rfl
    split at h
    case isTrue =>
      simp only [bind_eq_error] at h
      rcases h with hpass | ⟨⟨k, _⟩, _, hpush | ⟨_, _, h⟩⟩
      · exact .inr (.inr ⟨hkind, m, hm, hpass⟩)
      · exact .inr (.inl ⟨k, hpush⟩)
      · cases h
    case isFalse =>
      simp only [bind_eq_error] at h
      rcases h with hpush | ⟨k, hpush, hpass | ⟨_, _, h⟩⟩
      · exact .inr (.inl ⟨m, hpush⟩)
      · obtain ⟨_, hlongs, _, _⟩ := pushPhase_frame hpush
        exact .inr (.inr ⟨hkind, k, hlongs.trans hm, hpass⟩)
      · cases h

theorem linkStep_of_popError {f : FaultCode} (h : popPhase lp n l = .error f) : linkStep p lp l e n = .error f := by
  unfold linkStep
  split
  case h_1 => simp only [stepPlain, h]; rfl
  case h_2 => simp only [stepCompressed, h]; rfl

/-- The faults of a step, by the part that raises them. -/
theorem linkStep_fault {f : FaultCode} (h : linkStep p lp l e n = .error f) :
    (f = .doneOverflow ∧ popPhase lp n l = .error f) ∨ (f = .badLen ∧ lp.kind = .compressed) ∨
      (f = .badType ∧ lp.badTypeAt = .schedule) ∨ (f = .config ∧ p.alg = none) := by
  rcases linkStep_error h with hpop | ⟨m, hpush⟩ | ⟨hkind, m, _, hpass⟩
  · obtain ⟨hf, _⟩ := popPhase_error hpop
    exact .inl ⟨hf, hpop⟩
  · exact .inr (.inr (.inl (pushPhase_error hpush)))
  · exact .inr ((compressionPass_error hpass).imp (fun hlen => ⟨hlen, hkind⟩) .inr)

theorem linkStep_overflow_iff :
    linkStep p lp l e n = .error .doneOverflow ↔ Overflows lp l.done (poppedTxns lp.dq n l.dq) := by
  rw [← popPhase_overflow_iff]
  refine ⟨fun h => ?_, linkStep_of_popError⟩
  rcases linkStep_fault h with ⟨_, hpop⟩ | ⟨hf, _⟩ | ⟨hf, _⟩ | ⟨hf, _⟩
  · exact hpop
  all_goals cases hf

/-- A step that can meet no fault completes. -/
theorem linkStep_completes (hsafe : stepCannotFault p lp l) (e : Engine) (n : Nat) :
    ∃ l' e', linkStep p lp l e n = .ok (l', e') := by
  obtain ⟨hdone, hat, hcompressed⟩ := hsafe
  cases h : linkStep p lp l e n with
  | ok r => exact ⟨r.1, r.2, rfl⟩
  | error f =>
    rcases linkStep_error h with hpop | ⟨m, hpush⟩ | ⟨hkind, m, hm, hpass⟩
    · obtain ⟨_, hbounded⟩ := popPhase_error hpop
      exact absurd hdone hbounded
    · obtain ⟨_, hschedule⟩ := pushPhase_error hpush
      rw [hat] at hschedule
      cases hschedule
    · obtain ⟨halg, hmax, hlongs⟩ := hcompressed hkind
      have hadmitted : LongsAdmitted m := by rw [LongsAdmitted, hm]; exact hlongs
      obtain ⟨r, hok⟩ := compressionPass_completes (lp := lp) ⟨halg, hmax⟩ e hadmitted
      rw [hok] at hpass
      cases hpass

end Step

/-! ### The step of a link -/

/-- Settles O55: the tick and the discard end the step whatever came before. -/
theorem compressedStepTicksAndDiscards : Obligations.CompressedStepTicksAndDiscards := by
  intro p lp l l' e e' n hkind h
  obtain ⟨j, rfl, hparts⟩ := compressedStep_eq_ok hkind h
  obtain ⟨_, hcycle, _⟩ := hparts.pushed
  exact ⟨congrArg (· + 1) hcycle, fun hcur => ⟨if_pos hcur, if_pos hcur⟩⟩

/-- Settles O56: with no pop and no push a step is the compression pass, where there is one. -/
theorem stepOfBudgetZero : Obligations.StepOfBudgetZero := by
  refine fun p lp l e => ⟨fun hkind => ?plain, fun hkind l' e' h => ?compressed⟩
  case plain => simp only [linkStep, hkind]; rfl
  case compressed =>
    obtain ⟨j, rfl, hparts⟩ := compressedStep_eq_ok hkind h
    have hpass : compressionPass p lp l e = .ok (j, e') := by
      rcases hparts with ⟨_, k, hpush, hpass⟩ | ⟨_, k, hpass, hpush⟩ <;> cases hpush <;> exact hpass
    obtain ⟨_, _, hdone, hdq, _, hcur, _⟩ := compressionPass_frame hpass
    exact ⟨hdq, hdone, hcur, j, hpass, rfl, rfl, rfl⟩

/-- Settles O57: the pops decide F_DONE_OVERFLOW, the other parts raise the other faults, and the command raises the
step's. -/
theorem faultsOfLinkSteps : Obligations.FaultsOfLinkSteps := by
  refine ⟨fun p lp l e n => ⟨linkStep_overflow_iff, fun f h => ?_⟩, fun s f => ?commands⟩
  · exact (linkStep_fault h).imp_left fun ⟨hf, _⟩ => hf
  case commands =>
    simp only [exec]
    refine ⟨fun n => ?lnk, ?dn, ?up⟩
    case lnk | dn | up => exact fun hrun h => runCommand_of_bind_error f hrun h

section Commands

variable {s : State} {r : Link × Engine}

theorem execLnkStep_of_ok {n : Nat} (hrun : runs .lnk s)
    (h : linkStep s.cfg s.cfg.lnk s.lnk s.engine n = .ok r) :
    execLnkStep n s = .next { s with lnk := r.1, engine := r.2 } :=
  runCommand_of_bind_ok hrun h

theorem execMldnStep_of_ok (hrun : runs .mldn s)
    (h : linkStep s.cfg s.cfg.dnLink s.dn s.engine (bwBudget s.cfg s.opBw s.remDn) = .ok r) :
    execMldnStep s =
      .next { s with dn := r.1, engine := r.2, remDn := bwRemainder s.cfg s.opBw s.remDn } :=
  runCommand_of_bind_ok hrun h

theorem execMlupStep_of_ok (hrun : runs .mlup s)
    (h : linkStep s.cfg s.cfg.upLink s.up s.engine (bwBudget s.cfg s.opBw s.remUp) = .ok r) :
    execMlupStep s =
      .next { s with up := r.1, engine := r.2, remUp := bwRemainder s.cfg s.opBw s.remUp } :=
  runCommand_of_bind_ok hrun h

end Commands

/-- Settles O46: the step meets no fault, and what it completes with is the parts of the rules. -/
theorem lnkStepCompletes : Obligations.LnkStepCompletes := by
  intro s n hrun hdq hsafe
  obtain ⟨l, e, hstep⟩ := linkStep_completes hsafe s.engine n
  exact ⟨l, e, execLnkStep_of_ok hrun hstep, linkStep_stepped hdq hstep⟩

/-! ### The memory link -/

/-- Settles O47: each of the two links takes its step with its own direction, by the budget of R332. -/
theorem memoryLinkStepsComplete : Obligations.MemoryLinkStepsComplete := by
  refine fun s => ⟨fun hrun hdq hsafe => ?dn, fun hrun hdq hsafe => ?up⟩
  case dn =>
    obtain ⟨l, e, hstep⟩ := linkStep_completes (lp := s.cfg.dnLink) hsafe s.engine (bwBudget s.cfg s.opBw s.remDn)
    exact ⟨l, e, execMldnStep_of_ok hrun hstep, linkStep_stepped hdq hstep⟩
  case up =>
    obtain ⟨l, e, hstep⟩ := linkStep_completes (lp := s.cfg.upLink) hsafe s.engine (bwBudget s.cfg s.opBw s.remUp)
    exact ⟨l, e, execMlupStep_of_ok hrun hstep, linkStep_stepped hdq hstep⟩

/-- From any remainder below 1 the budgets and the last remainder divide what the remainder and the bandwidths sum to. -/
theorem budgets_law {p : Params} (bws : List Nat) {rem : Nat} (hrem : rem < 2 ^ p.bwFrac)
    (h : ∀ b ∈ bws, b < 2 ^ (16 + p.bwFrac)) :
    (budgets p rem bws).sum = (rem + bws.sum) / 2 ^ p.bwFrac ∧
      lastRemainder p rem bws = (rem + bws.sum) % 2 ^ p.bwFrac := by
  induction bws generalizing rem with
  | nil => exact ⟨(Nat.div_eq_of_lt hrem).symm, (Nat.mod_eq_of_lt hrem).symm⟩
  | cons b bws ih =>
    obtain ⟨hb, hbws⟩ := List.forall_mem_cons.1 h
    obtain ⟨hsum, hlast⟩ := ih (bwRemainder_lt p b rem) hbws
    have hcarried : rem + (b + bws.sum) = bwRemainder p b rem + bws.sum + 2 ^ p.bwFrac * bwBudget p b rem := by
      have hsplit := Nat.div_add_mod (bwOperand p b + rem) (2 ^ p.bwFrac)
      have hfits : bwOperand p b = b := Nat.mod_eq_of_lt hb
      unfold bwRemainder bwBudget
      omega
    simp only [budgets, lastRemainder, List.sum_cons, hsum, hlast, hcarried]
    exact ⟨by rw [Nat.add_mul_div_left _ _ (Nat.two_pow_pos _), Nat.add_comm], (Nat.add_mul_mod_self_left _ _ _).symm⟩

/-- Settles O48, from remainder 0. -/
theorem bandwidthLaw : Obligations.BandwidthLaw := by
  intro p bws h
  simpa using budgets_law bws (Nat.two_pow_pos p.bwFrac) h

end Sys2Proof.Proofs
end
